-- ==== Sys2Proof/Word.lean ====
section
/-! DEFINITION. The word types of the block: spec/00_scope.md R8 and R9. -/

namespace Sys2Proof

/-- One byte of a bus transaction (20_memory.md R40). -/
abbrev Byte := BitVec 8

/-- A device register word, a count or a threshold: 16 bits (R8). -/
abbrev Half := BitVec 16

/-- A command word, an operand word, a response word or the pattern of a binary32: 32 bits (R8). -/
abbrev Word := BitVec 32

end Sys2Proof
end

