-- ==== Sys2Proof/Syntax.lean ====
section
/-! DEFINITION. The command words, the twelve commands and the reasons of a refusal: 30_encoding.md R60 to R64. -/

namespace Sys2Proof

/-- What the command port carries: two 32-bit words (R60). -/
structure Command where
  cmd  : Word
  opnd : Word
  deriving DecidableEq, Repr

/-- The twelve commands, one per row of the opcode table, with their operands assembled as R63 says. -/
inductive Instr where
  | begin     (a : BitVec 7)                -- R100
  | setgain   (k : BitVec 3)                -- R101
  | setrate   (k : BitVec 3)                -- R102
  | readse    (ch : Byte)                   -- R130
  | readdiff  (p : BitVec 2)                -- R131
  | startse   (ch : Byte) (cont : Bool)     -- R126
  | startdiff (p : BitVec 2) (cont : Bool)  -- R127
  | poll                                    -- R128
  | fetch                                   -- R129
  | tovolts   (n : Half)                    -- R152, n the pattern of an Int16
  | tocount   (v : Word)                    -- R153, v the pattern of a binary32
  | armcmp    (ch : Byte) (t : Half)        -- R171, t the pattern of an Int16
  deriving DecidableEq, Repr

/-- Why an encoding spells no command (R64, 60_exceptions.md R180). -/
inductive RefusalReason where
  | reservedOpcode
  | reservedBits
  | reservedGain
  deriving DecidableEq, Repr

end Sys2Proof
end

