-- ==== Sys2Proof/WellFormed.lean ====
section
/-! DEFINITION. Which terms of Instr are commands the block accepts. Every operand but one is bounded by its width. -/

namespace Sys2Proof

/-- The one check beyond the operand widths: SETGAIN has six codes (30_encoding.md R64(c), R74). A single-ended channel
above 3 is legal (R64). -/
def Instr.wellFormed : Instr → Bool
  | .begin _       => true
  | .setgain k     => decide (k.toNat ≤ 5)
  | .setrate _     => true
  | .readse _      => true
  | .readdiff _    => true
  | .startse _ _   => true
  | .startdiff _ _ => true
  | .poll          => true
  | .fetch         => true
  | .tovolts _     => true
  | .tocount _     => true
  | .armcmp _ _    => true

/-- The proposition of the check, for statements. -/
abbrev Instr.WellFormed (i : Instr) : Prop := i.wellFormed = true

/-- The commands that issue a bus transaction when they are not stopped: those R182 names, and BEGIN's Open apart. -/
def Instr.needsOpen : Instr → Bool
  | .begin _       => false
  | .setgain _     => false
  | .setrate _     => false
  | .readse ch     => decide (ch.toNat ≤ 3)
  | .readdiff _    => true
  | .startse ch _  => decide (ch.toNat ≤ 3)
  | .startdiff _ _ => true
  | .poll          => true
  | .fetch         => true
  | .tovolts _     => false
  | .tocount _     => false
  | .armcmp ch _   => decide (ch.toNat ≤ 3)

end Sys2Proof
end

