-- ==== Sys2Proof/Decode.lean ====
section
/-! DEFINITION. The decoder of the command port, total on any two words and refusing by name, and the encoder:
30_encoding.md R60 to R64, check order 60_exceptions.md R184. -/

namespace Sys2Proof

/-- The twelve mnemonics of R61, with no operands yet. -/
inductive Op where
  | begin | setgain | setrate | readse | readdiff | startse | startdiff | poll | fetch | tovolts | tocount | armcmp
  deriving DecidableEq, Repr

/-- The opcode map of R61: cmd[31:28], and cmd[8] tells STARTSE from STARTDIFF. Opcodes 0x0 and 0xC to 0xF are reserved. -/
def Op.ofCmd (cmd : Word) : Option Op :=
  match (cmd.extractLsb' 28 4).toNat with
  | 0x1 => some .begin
  | 0x2 => some .setgain
  | 0x3 => some .setrate
  | 0x4 => some .readse
  | 0x5 => some .readdiff
  | 0x6 => some (if cmd.getLsbD 8 then .startdiff else .startse)
  | 0x7 => some .poll
  | 0x8 => some .fetch
  | 0x9 => some .tovolts
  | 0xA => some .tocount
  | 0xB => some .armcmp
  | _   => none

/-- The must-be-zero bits of each command's format (R62). -/
def Op.mustBeZero : Op → Word
  | .begin     => 0x0FFFFF80#32  -- FA: cmd[27:7]
  | .setgain   => 0x0FFFFFF8#32  -- FK: cmd[27:3]
  | .setrate   => 0x0FFFFFF8#32  -- FK
  | .readse    => 0x0FFFFF00#32  -- FC: cmd[27:8]
  | .readdiff  => 0x0FFFFFFC#32  -- FP: cmd[27:2]
  | .startse   => 0x0FFFFC00#32  -- FS: cmd[27:10]; bit 8 is 0 by the choice of the format
  | .startdiff => 0x0FFFFCFC#32  -- FD: cmd[27:10] and cmd[7:2]
  | .poll      => 0x0FFFFFFF#32  -- FZ: cmd[27:0]
  | .fetch     => 0x0FFFFFFF#32  -- FZ
  | .tovolts   => 0x0FFF0000#32  -- FN: cmd[27:16]
  | .tocount   => 0x0FFFFFFF#32  -- FZ
  | .armcmp    => 0x0F000000#32  -- FT: cmd[27:24]

/-- Operand assembly (R63). Nothing is scaled or shifted; opnd is read for TOCOUNT alone (R60). -/
def Op.operands (op : Op) (c : Command) : Instr :=
  match op with
  | .begin     => .begin (c.cmd.extractLsb' 0 7)
  | .setgain   => .setgain (c.cmd.extractLsb' 0 3)
  | .setrate   => .setrate (c.cmd.extractLsb' 0 3)
  | .readse    => .readse (c.cmd.extractLsb' 0 8)
  | .readdiff  => .readdiff (c.cmd.extractLsb' 0 2)
  | .startse   => .startse (c.cmd.extractLsb' 0 8) (c.cmd.getLsbD 9)
  | .startdiff => .startdiff (c.cmd.extractLsb' 0 2) (c.cmd.getLsbD 9)
  | .poll      => .poll
  | .fetch     => .fetch
  | .tovolts   => .tovolts (c.cmd.extractLsb' 0 16)
  | .tocount   => .tocount c.opnd
  | .armcmp    => .armcmp (c.cmd.extractLsb' 16 8) (c.cmd.extractLsb' 0 16)

/-- R64(c): SETGAIN with k = 6 or 7. -/
def Op.gainReserved (op : Op) (cmd : Word) : Bool :=
  decide (op = .setgain) && decide (5 < (cmd.extractLsb' 0 3).toNat)

/-- The decoder, with the check order of R184: ReservedOpcode, ReservedBits, ReservedGain. -/
def decode (c : Command) : Except RefusalReason Instr :=
  match Op.ofCmd c.cmd with
  | none => .error .reservedOpcode
  | some op =>
    if c.cmd &&& op.mustBeZero ≠ 0#32 then .error .reservedBits
    else if op.gainReserved c.cmd then .error .reservedGain
    else .ok (op.operands c)

/-- The words of an instruction, field by field as the format table of R62 lays them out. opnd is zero where R60 ignores it. -/
def encode : Instr → Command
  | .begin a          => { cmd := 0x1#4 ++ 0#21 ++ a, opnd := 0#32 }
  | .setgain k        => { cmd := 0x2#4 ++ 0#25 ++ k, opnd := 0#32 }
  | .setrate k        => { cmd := 0x3#4 ++ 0#25 ++ k, opnd := 0#32 }
  | .readse ch        => { cmd := 0x4#4 ++ 0#20 ++ ch, opnd := 0#32 }
  | .readdiff p       => { cmd := 0x5#4 ++ 0#26 ++ p, opnd := 0#32 }
  | .startse ch cont  => { cmd := 0x6#4 ++ 0#18 ++ BitVec.ofBool cont ++ 0#1 ++ ch, opnd := 0#32 }
  | .startdiff p cont => { cmd := 0x6#4 ++ 0#18 ++ BitVec.ofBool cont ++ 1#1 ++ 0#6 ++ p, opnd := 0#32 }
  | .poll             => { cmd := 0x7#4 ++ 0#28, opnd := 0#32 }
  | .fetch            => { cmd := 0x8#4 ++ 0#28, opnd := 0#32 }
  | .tovolts n        => { cmd := 0x9#4 ++ 0#12 ++ n, opnd := 0#32 }
  | .tocount v        => { cmd := 0xA#4 ++ 0#28, opnd := v }
  | .armcmp ch t      => { cmd := 0xB#4 ++ 0#4 ++ ch ++ t, opnd := 0#32 }

/-- The command whose bits are w, numbered as the opcode table numbers them: cmd is the first word, opnd the bits above it;
every bit at or above nbits is zero. -/
def commandOfTableWord (nbits w : Nat) : Command :=
  let bits := w % 2 ^ nbits
  { cmd := BitVec.ofNat 32 bits, opnd := BitVec.ofNat 32 (bits >>> 32) }

/-- What the decoder reads from a word of the opcode table; none where it refuses. -/
def decodeTableWord (nbits w : Nat) : Option Instr :=
  match decode (commandOfTableWord nbits w) with
  | .ok i    => some i
  | .error _ => none

end Sys2Proof
end

