-- ==== Sys2Proof/Config.lean ====
section
/-! DEFINITION. What construction fixes (00_scope.md R6, R7) and the free values the spec leaves open (R47, R155).

The profile and the parameters are held in State (they are arguments of the model, R6 and R7), so a statement about every
state is a statement about every value of them; the defaults here are only what State.reset takes. -/

namespace Sys2Proof

/-- The resolution of the variant (R6). `bits16` is SHIFT = 0, `bits12` is SHIFT = 4; no other shift is admitted. -/
inductive Resolution where
  | bits16
  | bits12
  deriving DecidableEq, Repr

/-- The Device Profile, set at construction and written by no command (R6, 10_state.md R20). -/
structure Profile where
  resolution  : Resolution
  defaultRate : BitVec 3
  deriving DecidableEq, Repr

/-- How TOCOUNT narrows a real to an integer: the parameter CNT_ROUND (R7, 42_scale.md R153). -/
inductive CntRound where
  | nearestEven
  | towardZero
  deriving DecidableEq, Repr

/-- The block parameters of R7 other than the draw `nanCount`. -/
structure Params where
  rdyHi    : Half      -- RDY_HI_THRESH
  rdyLo    : Half      -- RDY_LO_THRESH
  cmpSetOs : Bool      -- CMP_SET_OS
  cntRound : CntRound  -- CNT_ROUND
  deriving DecidableEq, Repr

/-- DESIGN CHOICE (log entry 2): the spec gives SHIFT no default, and State.reset takes the 16-bit variant.
The default rate 0b100 is the spec's (R6, D27), which took it from general knowledge (log entry 3). -/
def Profile.default : Profile := { resolution := .bits16, defaultRate := 0b100#3 }

/-- The other variant: the 12-bit profile of R6 with the same default rate. -/
def Profile.default12 : Profile := { resolution := .bits12, defaultRate := 0b100#3 }

/-- The spec's stated defaults (R7; log entry 4). -/
def Params.default : Params :=
  { rdyHi := 0xFFFF#16, rdyLo := 0x0000#16, cmpSetOs := false, cntRound := .nearestEven }

/-- Free value (log entry 5): the two bytes the device answers to the n-th two-byte Read since State.reset, where the
environment has queued none. Unconstrained (20_memory.md R47). -/
opaque Config.deviceAnswer : Nat → Byte × Byte

/-- Free value (log entry 6): the count that the n-th TOCOUNT of a NaN responds. Unconstrained (42_scale.md R155). -/
opaque Config.nanCount : Nat → Half

end Sys2Proof
end

