-- ==== Sys2Proof/Machine/State.lean ====
section
/-! DEFINITION. The state of the block (10_state.md R20 to R31), the observation the spec says a run records (20_memory.md
R52), the ports, the ways a step can stop, and the state right after reset (70_reset_and_hazards.md R200). -/

namespace Sys2Proof.Machine

/-- The six values of the gain register, by the symbols of 30_encoding.md R65 and R74. The codes 6 and 7 are never held
(10_state.md R21; log entry 17). -/
inductive Gain where
  | fsr6144
  | fsr4096
  | fsr2048
  | fsr1024
  | fsr0512
  | fsr0256
  deriving DecidableEq, Repr

/-- The sequencer's phase, the one piece of in-flight state (10_state.md R26). -/
inductive Phase where
  | idle
  | polling
  deriving DecidableEq, Repr

/-- The one fault kind of the block (60_exceptions.md R181). -/
inductive FaultKind where
  | notOpen
  deriving DecidableEq, Repr

/-- One bus transaction, as the event history records it (20_memory.md R40, R52). -/
inductive BusEvent where
  | openDev (a : BitVec 7)
  | write (a : BitVec 7) (bytes : List Byte)
  | read (a : BitVec 7) (b0 b1 : Byte)
  deriving DecidableEq, Repr

/-- The kind of a response (30_encoding.md R67). -/
inductive RspKind where
  | none
  | count
  | bool
  | volts
  deriving DecidableEq, Repr

/-- One response on the response port: rsp_kind and rsp[31:0] (R67). -/
structure Response where
  kind : RspKind
  rsp  : Word
  deriving DecidableEq, Repr

/-- Everything the spec gives the block, the observation of the run, and what stands at its ports. -/
structure State where
  profile   : Profile                         -- R20, construction only
  params    : Params                          -- 00_scope.md R7, construction only
  gain      : Gain                            -- R21
  rate      : BitVec 3                        -- R22
  devAddr   : BitVec 7                        -- R24
  opened    : Bool                            -- R24
  phase     : Phase                           -- R26
  cmdIndex  : Nat                             -- R27
  fault     : Option (FaultKind × Word)       -- R28
  refused   : Option (RefusalReason × Word)   -- R28
  history   : List BusEvent                   -- R52, oldest first
  responses : List Response                   -- R52, R67, oldest first
  port      : List Command                    -- R60: commands offered and not yet taken, first first
  oracle    : List (Byte × Byte)              -- R47: answers queued by the device, first first
  resetReq  : Bool                            -- R200: reset is requested
  reads     : Nat                             -- the model's own: index of the next device answer (log entry 5)
  nanDraws  : Nat                             -- the model's own: index of the next NaN draw (log entry 6)
  deriving DecidableEq, Repr

/-- The reasons a step stops with a fault. -/
inductive Fault where
  /-- Raised by step alone, in a block whose fault mark is set: it takes no command until reset (R181, R184.1, U5). The
  mark's kind and command word are repeated. Safe: the spec's block is stuck there too. -/
  | stopped (kind : FaultKind) (cmd : Word)
  deriving DecidableEq, Repr

/-- The reasons a step is refused. -/
inductive Refusal where
  /-- Raised by exec for an instruction with no meaning yet. Safe. No arm of exec raises it any more. -/
  | notModelled (mnemonic : String)
  /-- Raised by step alone, in a block whose refusal mark is set: it takes no command until reset (R180, R184.1, U5). The
  mark's reason and command word are repeated. Safe: the spec's block is stuck there too. -/
  | stopped (reason : RefusalReason) (cmd : Word)
  deriving DecidableEq, Repr

/-- What a step of this block can answer. -/
abbrev Result := Host.Outcome State Fault Refusal

/-- The state right after construction and reset with a given profile and parameters (R200): nothing observed yet, nothing
at the ports. devAddr is unspecified by R201: zero is a DESIGN CHOICE (log entry 1). -/
def State.resetWith (p : Profile) (q : Params) : State where
  profile   := p
  params    := q
  gain      := .fsr6144
  rate      := p.defaultRate
  devAddr   := 0#7
  opened    := false
  phase     := .idle
  cmdIndex  := 0
  fault     := none
  refused   := none
  history   := []
  responses := []
  port      := []
  oracle    := []
  resetReq  := false
  reads     := 0
  nanDraws  := 0

/-- The machine right after reset, with the default profile and parameters (log entries 2, 3, 4). -/
def State.reset : State := State.resetWith Profile.default Params.default

end Sys2Proof.Machine
end

