-- ==== Sys2Proof/Machine/Ops.lean ====
section
/-! DEFINITION. The shared operations: the bus port and the two register accesses (20_memory.md R40 to R44, R47), the
response port (30_encoding.md R67, R68), `next` (10_state.md R27), `raise` and `refuse` (60_exceptions.md R180, R181), reset
at any time (70_reset_and_hazards.md R200), and what the environment can do at the ports.

The block has no trap: raising a fault sets the sticky mark and ends the command (R181, R186), and the only way back is reset.
So State.raise is the entry of the one exception and State.applyReset the return from it. -/

namespace Sys2Proof.Machine

/-! ## The device registers -/

/-- Register pointers (R41; from general knowledge, log entry 16). -/
def ptrConv : Byte := 0x00#8
def ptrCfg : Byte := 0x01#8
def ptrLo : Byte := 0x02#8
def ptrHi : Byte := 0x03#8

/-- w[15:8] (R42). -/
def hiByte (w : Half) : Byte := w.extractLsb' 8 8

/-- w[7:0] (R42). -/
def loByte (w : Half) : Byte := w.extractLsb' 0 8

/-- A transaction is added at the end of the history (R50, R52). -/
def State.emit (s : State) (e : BusEvent) : State := { s with history := s.history ++ [e] }

/-- RegWrite: one 3-byte Write, pointer then value, high byte first (R43). -/
def State.regWrite (s : State) (ptr : Byte) (w : Half) : State :=
  s.emit (.write s.devAddr [ptr, hiByte w, loByte w])

/-- The two bytes the device answers to the next Read: the next queued answer, else a free value (R47; log entry 5). -/
def State.nextAnswer (s : State) : Byte × Byte :=
  match s.oracle with
  | a :: _ => a
  | []     => Config.deviceAnswer s.reads

/-- One answer is used up. -/
def State.dropAnswer (s : State) : State := { s with oracle := s.oracle.tail, reads := s.reads + 1 }

/-- RegRead: a 1-byte pointer Write, then a 2-byte Read whose first byte is the high one (R44, C2). -/
def State.regRead (s : State) (ptr : Byte) : Half × State :=
  (s.nextAnswer.1 ++ s.nextAnswer.2,
   ((s.emit (.write s.devAddr [ptr])).emit (.read s.devAddr s.nextAnswer.1 s.nextAnswer.2)).dropAnswer)

/-! ## The response port and the sequencer -/

/-- `respond(kind, v)` with the word already encoded (R67, R68). -/
def State.respond (s : State) (kind : RspKind) (rsp : Word) : State :=
  { s with responses := s.responses ++ [{ kind := kind, rsp := rsp }] }

/-- `next`: the command has finished (R27). -/
def State.advance (s : State) : State := { s with cmdIndex := s.cmdIndex + 1, phase := .idle }

/-- `respond(kind, v); next`, the end of every command that finishes (R67). -/
def State.finish (s : State) (kind : RspKind) (rsp : Word) : State := (s.respond kind rsp).advance

/-- A count on the response port: `sext_32(c)` (R67). -/
def countRsp (c : Half) : Word := c.signExtend 32

/-- A Bool on the response port: 0 or 1 (R67). -/
def boolRsp (b : Bool) : Word := if b then 1#32 else 0#32

/-! ## Stops -/

/-- `raise F(info)`: sets the sticky fault mark if there is none, and nothing else (R181, R183). -/
def State.raise (s : State) (kind : FaultKind) (cmd : Word) : State :=
  match s.fault with
  | none   => { s with fault := some (kind, cmd) }
  | some _ => s

/-- `refuse(reason)`: sets the sticky refusal mark if there is none, and nothing else (R28, R180, R183). -/
def State.refuse (s : State) (reason : RefusalReason) (cmd : Word) : State :=
  match s.refused with
  | none   => { s with refused := some (reason, cmd) }
  | some _ => s

/-- A command that needs the device: NotOpen before its first transaction if no BEGIN has run, else its body (R182, R184). -/
def State.whenOpen (s : State) (i : Instr) (body : State → State) : State :=
  if s.opened then body s else s.raise .notOpen (encode i).cmd

/-! ## Reset -/

/-- Reset applied at any time (R200): every field of R31 at its reset value, profile and parameters kept, no transaction.
The record of the run, the ports and the indexes of the free values stay (log entry 10); the request is served. -/
def State.applyReset (s : State) : State :=
  { State.resetWith s.profile s.params with
    history := s.history, responses := s.responses, port := s.port, oracle := s.oracle,
    reads := s.reads, nanDraws := s.nanDraws }

/-! ## The environment's side of the ports -/

/-- The sender offers one more command (R60). -/
def State.offer (s : State) (c : Command) : State := { s with port := s.port ++ [c] }

/-- The device queues one more answer (R47). -/
def State.queueAnswer (s : State) (w : Half) : State := { s with oracle := s.oracle ++ [(hiByte w, loByte w)] }

/-- Reset is requested (R200). -/
def State.requestReset (s : State) : State := { s with resetReq := true }

/-- The command port takes the first offered command (R60; log entry 9). -/
def State.take (s : State) : State := { s with port := s.port.tail }

end Sys2Proof.Machine
end

