-- ==== Sys2Proof/Machine/Operands.lean ====
section
/-! DEFINITION. The operand forms: gain codes (30_encoding.md R74), resolution shift (00_scope.md R6), channel selectors and
the channel guard (41_conversion.md R120, R125), MUX codes (30_encoding.md R72), signed 16-bit values (00_scope.md R9). -/

namespace Sys2Proof.Machine

/-- SHIFT (R6). -/
def shiftOf : Resolution → Nat
  | .bits16 => 0
  | .bits12 => 4

/-- SHIFT of the state's profile. -/
def State.shift (s : State) : Nat := shiftOf s.profile.resolution

/-- The PGA code of a gain (R74). -/
def gainCode : Gain → BitVec 3
  | .fsr6144 => 0#3
  | .fsr4096 => 1#3
  | .fsr2048 => 2#3
  | .fsr1024 => 3#3
  | .fsr0512 => 4#3
  | .fsr0256 => 5#3

/-- The gain of a code; none for the codes 6 and 7 (R74). -/
def gainOfCode (k : BitVec 3) : Option Gain :=
  match k.toNat with
  | 0 => some .fsr6144
  | 1 => some .fsr4096
  | 2 => some .fsr2048
  | 3 => some .fsr1024
  | 4 => some .fsr0512
  | 5 => some .fsr0256
  | _ => none

/-- A valid Channel Selector: a single-ended channel 0 to 3, or one of the four pairs (R120). -/
inductive Selector where
  | single (c : BitVec 2)
  | diff (p : BitVec 2)
  deriving DecidableEq, Repr

/-- The channel guard (R125): a channel above 3 gives no selector, so no word is built from it (R73). -/
def channelGuard (ch : Byte) : Option (BitVec 2) :=
  if ch.toNat ≤ 3 then some (ch.setWidth 2) else none

/-- The MUX field (R72): 0b100 + c for a single-ended channel, p for a pair. -/
def mux : Selector → BitVec 3
  | .single c => 0b100#3 + c.setWidth 3
  | .diff p   => p.setWidth 3

/-- `clamp(x, lo, hi)` on integers (R9). -/
def clampInt (x lo hi : Int) : Int := min (max x lo) hi

/-- `bits16(i)` (R9). -/
def bits16 (i : Int) : Half := BitVec.ofInt 16 i

end Sys2Proof.Machine
end

