-- ==== Sys2Proof/Machine/Flags.lean ====
section
/-! DEFINITION. The block has no flag register and no condition code (10_state.md R29). The one status it looks at is bit 15
of a CFG read (30_encoding.md R71); here it stands with the other named fields of the CFG word (R70). -/

namespace Sys2Proof.Machine

/-- Bit 15 of a CFG word: the start-conversion flag when written, 1 = not busy when read (R71). -/
def cfgOs (w : Half) : Bool := w.getLsbD 15

/-- MUX, bits 14:12 (R70). -/
def cfgMux (w : Half) : BitVec 3 := w.extractLsb' 12 3

/-- PGA, bits 11:9 (R70). -/
def cfgPga (w : Half) : BitVec 3 := w.extractLsb' 9 3

/-- MODE, bit 8: 1 = single-shot (R70, R76). -/
def cfgMode (w : Half) : Bool := w.getLsbD 8

/-- DR, bits 7:5 (R70). -/
def cfgDr (w : Half) : BitVec 3 := w.extractLsb' 5 3

/-- COMP_MODE, bit 4: 1 = window (R70, R77). -/
def cfgCompMode (w : Half) : Bool := w.getLsbD 4

/-- COMP_POL, bit 3: 1 = active high (R70, R77). -/
def cfgCompPol (w : Half) : Bool := w.getLsbD 3

/-- COMP_LAT, bit 2: 1 = latching (R70, R77). -/
def cfgCompLat (w : Half) : Bool := w.getLsbD 2

/-- COMP_QUE, bits 1:0: 00 = assert after one conversion (R70, R77). -/
def cfgCompQue (w : Half) : BitVec 2 := w.extractLsb' 0 2

end Sys2Proof.Machine
end

