-- ==== Sys2Proof/Machine/Codec.lean ====
section
/-! DEFINITION. The pure word functions: the read-path builder (41_conversion.md R123), the comparator builder (43_comparator.md
R172), the threshold encoder (R173), the low-threshold constant (R170) and the sample decoder (41_conversion.md R121). -/

namespace Sys2Proof.Machine

/-- `cfgRead(sel, cont, gain, rate)`: OS set, MUX, PGA, MODE = single-shot unless continuous, DR, comparator bits zero (R123). -/
def cfgRead (sel : Selector) (cont : Bool) (gain : Gain) (rate : BitVec 3) : Half :=
  0x8000#16
    ||| (mux sel).setWidth 16 <<< 12
    ||| (gainCode gain).setWidth 16 <<< 9
    ||| (if cont then 0#16 else 1#16) <<< 8
    ||| rate.setWidth 16 <<< 5

/-- `cfgCmp(ch, gain, rate)`: OS as the parameter CMP_SET_OS says, MUX of the channel, PGA, MODE continuous, DR, latching,
active low, traditional, after one conversion (R172). -/
def cfgCmp (setOs : Bool) (c : BitVec 2) (gain : Gain) (rate : BitVec 3) : Half :=
  (BitVec.ofBool setOs).setWidth 16 <<< 15
    ||| (mux (.single c)).setWidth 16 <<< 12
    ||| (gainCode gain).setWidth 16 <<< 9
    ||| 0#16 <<< 8
    ||| rate.setWidth 16 <<< 5
    ||| 0#16 <<< 4
    ||| 0#16 <<< 3
    ||| 1#16 <<< 2

/-- The comparator path's low threshold, a protocol constant (R170). -/
def cmpLoThresh : Half := 0x8000#16

/-- `thrWord(t, s)`: clamp to the resolution's range, then shift (R173). -/
def thrWord (t : Half) (s : Nat) : Half :=
  bits16 (clampInt t.toInt (-(32768 >>> s : Nat)) (32767 >>> s : Nat) * 2 ^ s)

/-- `decode(raw, s)`, the sample format converter: logical right shift, then, on the shifted path, sign extension (R121).
The result is the pattern of an Int16. -/
def decodeSample (raw : Half) (r : Resolution) : Half :=
  match r with
  | .bits16 => raw >>> shiftOf .bits16
  | .bits12 =>
    let t := raw >>> shiftOf .bits12
    if 0x07FF < t.toNat then t ||| 0xF000#16 else t

end Sys2Proof.Machine
end

