-- ==== Sys2Proof/Machine/Comparator.lean ====
section
/-! DEFINITION. The meaning of ARMCMP: 43_comparator.md R170 to R173. -/

namespace Sys2Proof.Machine

/-- The comparator path's three writes: LO, then HI, then CFG (R171, 20_memory.md R51). -/
def State.armSeq (s : State) (c : BitVec 2) (t : Half) : State :=
  ((s.regWrite ptrLo cmpLoThresh).regWrite ptrHi (thrWord t s.shift)).regWrite ptrCfg
    (cfgCmp s.params.cmpSetOs c s.gain s.rate)

/-- R171. A channel above 3 responds None with no bus activity, before the NotOpen check (R184). -/
def execArmcmp (ch : Byte) (t : Half) (s : State) : Result :=
  match channelGuard ch with
  | none   => .next (s.finish .none 0#32)
  | some c => .next (s.whenOpen (.armcmp ch t) fun s => (s.armSeq c t).finish .none 0#32)

end Sys2Proof.Machine
end

