-- ==== Sys2Proof/Machine/Configuration.lean ====
section
/-! DEFINITION. The meanings of the configuration commands BEGIN, SETGAIN and SETRATE: 40_configuration.md R100 to R102. -/

namespace Sys2Proof.Machine

/-- R100: Open(a), not subject to the opened check; then devAddr and opened; responds None. -/
def execBegin (a : BitVec 7) (s : State) : Result :=
  .next ({ s.emit (.openDev a) with devAddr := a, opened := true }.finish .none 0#32)

/-- R101: the gain register; codes 6 and 7 are refused (the decoder refuses them first, R64). No bus traffic. -/
def execSetgain (k : BitVec 3) (s : State) : Result :=
  match gainOfCode k with
  | none   => .next (s.refuse .reservedGain (encode (.setgain k)).cmd)
  | some g => .next ({ s with gain := g }.finish .none 0#32)

/-- R102: the data-rate register; every code is accepted. No bus traffic. -/
def execSetrate (k : BitVec 3) (s : State) : Result :=
  .next ({ s with rate := k }.finish .none 0#32)

end Sys2Proof.Machine
end

