-- ==== Sys2Proof/Machine/Conversion.lean ====
section
/-! DEFINITION. The conversion family: the setup sequence (41_conversion.md R122), the meanings of STARTSE, STARTDIFF, POLL,
FETCH, READSE and READDIFF (R126 to R131) and the poll step (R132). -/

namespace Sys2Proof.Machine

/-- `startSeq(sel, cont)`: HI, then LO, then CFG (R122, R124). -/
def State.startSeq (s : State) (sel : Selector) (cont : Bool) : State :=
  ((s.regWrite ptrHi s.params.rdyHi).regWrite ptrLo s.params.rdyLo).regWrite ptrCfg (cfgRead sel cont s.gain s.rate)

/-- The body of a non-blocking start: the three writes, then the response None (R126, R127). -/
def State.startNonBlocking (s : State) (sel : Selector) (cont : Bool) : State :=
  (s.startSeq sel cont).finish .none 0#32

/-- The body of a blocking read: the three writes in single-shot mode, then Polling (R130, R131, D24). -/
def State.startBlocking (s : State) (sel : Selector) : State :=
  { s.startSeq sel false with phase := .polling }

/-- RegRead(CONV) and the decoded count as the response (R129, R132). -/
def State.fetchCount (s : State) : State :=
  (s.regRead ptrConv).2.finish .count (countRsp (decodeSample (s.regRead ptrConv).1 s.profile.resolution))

/-- R126. The channel guard comes before the NotOpen check (R125, R184). -/
def execStartse (ch : Byte) (cont : Bool) (s : State) : Result :=
  match channelGuard ch with
  | none   => .next (s.finish .none 0#32)
  | some c => .next (s.whenOpen (.startse ch cont) fun s => s.startNonBlocking (.single c) cont)

/-- R127. -/
def execStartdiff (p : BitVec 2) (cont : Bool) (s : State) : Result :=
  .next (s.whenOpen (.startdiff p cont) fun s => s.startNonBlocking (.diff p) cont)

/-- R128: bit 15 of a CFG read, as a Bool. -/
def execPoll (s : State) : Result :=
  .next (s.whenOpen .poll fun s => (s.regRead ptrCfg).2.finish .bool (boolRsp (cfgOs (s.regRead ptrCfg).1)))

/-- R129: the decoded CONV read, as a Count. -/
def execFetch (s : State) : Result :=
  .next (s.whenOpen .fetch State.fetchCount)

/-- R130. A channel above 3 responds Count 0 with no bus activity. -/
def execReadse (ch : Byte) (s : State) : Result :=
  match channelGuard ch with
  | none   => .next (s.finish .count 0#32)
  | some c => .next (s.whenOpen (.readse ch) fun s => s.startBlocking (.single c))

/-- R131. -/
def execReaddiff (p : BitVec 2) (s : State) : Result :=
  .next (s.whenOpen (.readdiff p) fun s => s.startBlocking (.diff p))

/-- R132: one step of the poll loop. Nothing bounds how often it is taken (R26). -/
def State.pollStep (s : State) : State :=
  if cfgOs (s.regRead ptrCfg).1 then (s.regRead ptrCfg).2.fetchCount else (s.regRead ptrCfg).2

end Sys2Proof.Machine
end

