-- ==== Sys2Proof/Machine/Float.lean ====
section
/-! DEFINITION. Real arithmetic and IEEE 754 binary32 as the spec uses them (00_scope.md R10), and the range table, LSB, toVolts
and toCount of the scale converter (42_scale.md R150 to R155). "Real-valued arithmetic is exact on rationals" (R10): every
intermediate value is a Rat, and rounding happens only where a rule says rne32 or toInteger. -/

namespace Sys2Proof.Machine

/-- 2^e for an integer e. -/
def pow2 : Int → Rat
  | .ofNat n   => ((2 ^ n : Nat) : Rat)
  | .negSucc n => mkRat 1 (2 ^ (n + 1))

/-- `toInteger(x, mode)` (R153): the nearest integer with ties to the even one, or the fraction dropped. -/
def toInteger (mode : CntRound) (x : Rat) : Int :=
  match mode with
  | .nearestEven =>
    let f := x.floor
    let r := x - (f : Rat)
    if r < mkRat 1 2 then f
    else if mkRat 1 2 < r then f + 1
    else if f % 2 = 0 then f else f + 1
  | .towardZero => if x < 0 then -((-x).floor) else x.floor

/-- The largest k with 2^k ≤ x, for x > 0. -/
def floorLog2 (x : Rat) : Int :=
  let k : Int := (Nat.log2 x.num.natAbs : Int) - (Nat.log2 x.den : Int)
  if pow2 k ≤ x then k else k - 1

/-- The 31 magnitude bits of rne32 of x > 0. The unit in the last place of x is 2^e, where e is never below the subnormals' -149;
q is x in that unit, rounded ties to even. The pattern is exponent and fraction side by side, so a q that rounds up to 2^24
carries into the exponent, and from the largest exponent into the pattern of Inf. -/
def rneMagnitude (x : Rat) : Nat :=
  let e : Int := max (-149) (floorLog2 x - 23)
  let q : Nat := (toInteger .nearestEven (x * pow2 (-e))).toNat
  if 104 < e then 0x7F800000 else (e + 149).toNat * 2 ^ 23 + q

/-- `bits32(rne32(x))`: roundTiesToEven to binary32; a magnitude of at least 2^128 - 2^103 gives Inf (R10). Zero gives +0;
a negative x keeps its sign bit (log entry 18). -/
def rne32 (x : Rat) : Word :=
  if x < 0 then BitVec.ofNat 32 (0x80000000 + rneMagnitude (-x))
  else if x = 0 then 0#32
  else BitVec.ofNat 32 (rneMagnitude x)

/-- What a binary32 pattern stands for. The sign of a zero is not kept: no rule looks at it (R153: -0.0 gives 0). -/
inductive Binary32 where
  | nan
  | inf (neg : Bool)
  | finite (x : Rat)
  deriving DecidableEq, Repr

/-- Reading the 32 bits: sign 31, exponent 30:23 with bias 127, fraction 22:0 (IEEE 754 binary32; R8, D5). -/
def Binary32.ofBits (w : Word) : Binary32 :=
  let neg := w.getLsbD 31
  let ex := (w.extractLsb' 23 8).toNat
  let fr := (w.extractLsb' 0 23).toNat
  let sgn : Rat := if neg then -1 else 1
  if ex = 255 then (if fr = 0 then .inf neg else .nan)
  else if ex = 0 then .finite (sgn * (fr : Rat) * pow2 (-149))
  else .finite (sgn * ((2 ^ 23 + fr : Nat) : Rat) * pow2 ((ex : Int) - 150))

/-- `isNaN(v)` (R153, R155). -/
def isNaN (v : Word) : Bool :=
  match Binary32.ofBits v with
  | .nan      => true
  | .inf _    => false
  | .finite _ => false

/-- The decimal full-scale range of each gain in volts, as an exact rational (R74, R150). -/
def rangeDecimal : Gain → Rat
  | .fsr6144 => mkRat 768 125
  | .fsr4096 => mkRat 512 125
  | .fsr2048 => mkRat 256 125
  | .fsr1024 => mkRat 128 125
  | .fsr0512 => mkRat 64 125
  | .fsr0256 => mkRat 32 125

/-- The range LUT, "a static table, not computed" (R150): the bits of R32[g]. -/
def rangeBits : Gain → Word
  | .fsr6144 => 0x40C49BA6#32
  | .fsr4096 => 0x4083126F#32
  | .fsr2048 => 0x4003126F#32
  | .fsr1024 => 0x3F83126F#32
  | .fsr0512 => 0x3F03126F#32
  | .fsr0256 => 0x3E83126F#32

/-- The value of a finite pattern (zero for the others, which no caller passes: the LUT is finite). -/
def finiteValue (w : Word) : Rat :=
  match Binary32.ofBits w with
  | .nan      => 0
  | .inf _    => 0
  | .finite x => x

/-- R32[g] as a real (R150). -/
def range32 (g : Gain) : Rat := finiteValue (rangeBits g)

/-- `LSB(g, s) = R32[g] / 2^(15 - s)`, an exact division (R151). -/
def lsb (g : Gain) (s : Nat) : Rat := range32 g / pow2 (15 - (s : Int))

/-- `toVolts(n, g, s) = rne32(n * LSB(g, s))`: one rounding, of the exact product (R152). -/
def toVolts (n : Half) (g : Gain) (s : Nat) : Word := rne32 ((n.toInt : Rat) * lsb g s)

/-- `rne32(v / LSB)` for any binary32 v and a positive real LSB; Inf divided stays Inf (R153, R155). -/
def quotient32 (v : Word) (l : Rat) : Binary32 :=
  match Binary32.ofBits v with
  | .nan      => .nan
  | .inf neg  => .inf neg
  | .finite x => Binary32.ofBits (rne32 (x / l))

/-- `clamp(x, lo, hi)` on reals (00_scope.md R9). -/
def clampRat (x lo hi : Rat) : Rat := min (max x lo) hi

/-- `toCount(v, g, s)`: divide, round to binary32, clamp to the signed 16-bit range, round to an integer (R153). A NaN gives
the draw it is passed (R155). -/
def toCount (mode : CntRound) (nan : Half) (v : Word) (g : Gain) (s : Nat) : Half :=
  match quotient32 v (lsb g s) with
  | .nan      => nan
  | .inf neg  => if neg then bits16 (-32768) else bits16 32767
  | .finite q => bits16 (toInteger mode (clampRat q (-32768) 32767))

end Sys2Proof.Machine
end

