-- ==== Sys2Proof/Machine/Scale.lean ====
section
/-! DEFINITION. The meanings of the scale converter's commands TOVOLTS and TOCOUNT: 42_scale.md R152 to R156. -/

namespace Sys2Proof.Machine

/-- R152: needs no BEGIN, touches no bus, scales by the gain register as it stands (R156, 70_reset_and_hazards.md R205). -/
def execTovolts (n : Half) (s : State) : Result :=
  .next (s.finish .volts (toVolts n s.gain s.shift))

/-- R153: needs no BEGIN, touches no bus. A NaN responds a free count, a new draw each time (R155; log entry 6). -/
def execTocount (v : Word) (s : State) : Result :=
  let c := toCount s.params.cntRound (Config.nanCount s.nanDraws) v s.gain s.shift
  .next ({ s with nanDraws := if isNaN v then s.nanDraws + 1 else s.nanDraws }.finish .count (countRsp c))

end Sys2Proof.Machine
end

