-- ==== Sys2Proof/Machine/Dispatch.lean ====
section
/-! DEFINITION. One arm per constructor of Instr, each a direct call of the instruction's meaning. -/

namespace Sys2Proof.Machine

def exec (i : Instr) (s : State) : Host.Outcome State Fault Refusal :=
  match i with
  | .begin a => Sys2Proof.Machine.execBegin a s
  | .setgain k => Sys2Proof.Machine.execSetgain k s
  | .setrate k => Sys2Proof.Machine.execSetrate k s
  | .readse ch => Sys2Proof.Machine.execReadse ch s
  | .readdiff p => Sys2Proof.Machine.execReaddiff p s
  | .startse ch cont => Sys2Proof.Machine.execStartse ch cont s
  | .startdiff p cont => Sys2Proof.Machine.execStartdiff p cont s
  | .poll => Sys2Proof.Machine.execPoll s
  | .fetch => Sys2Proof.Machine.execFetch s
  | .tovolts n => Sys2Proof.Machine.execTovolts n s
  | .tocount v => Sys2Proof.Machine.execTocount v s
  | .armcmp ch t => Sys2Proof.Machine.execArmcmp ch t s

end Sys2Proof.Machine
end

