-- ==== Sys2Proof/Machine/Sequencer.lean ====
section
/-! DEFINITION. What the block does next, decided from its state alone: 10_state.md R25 to R28, 30_encoding.md R60,
60_exceptions.md R184, 70_reset_and_hazards.md R200. -/

namespace Sys2Proof.Machine

/-- The choices of the sequencer. -/
inductive Action where
  | reset                                               -- R200
  | pollOnce                                            -- R132
  | haltedByFault (kind : FaultKind) (cmd : Word)       -- R181, R184.1
  | haltedByRefusal (reason : RefusalReason) (cmd : Word)  -- R180, R184.1
  | await                                               -- Idle, nothing offered (R200)
  | reject (reason : RefusalReason) (cmd : Word)        -- R64, R180
  | issue (i : Instr)                                   -- a command that passed the decode-time checks
  deriving DecidableEq, Repr

/-- What the command port gives when it is free: the first offered command, decoded (R60, R184.2 to R184.4). -/
def portAction (port : List Command) : Action :=
  match port with
  | []     => .await
  | c :: _ =>
    match decode c with
    | .error r => .reject r c.cmd
    | .ok i    => .issue i

/-- The next action: reset first; while Polling the poll step and no command (R25, R26); in a stopped block nothing (R184.1);
else the command port. -/
def State.nextAction (s : State) : Action :=
  if s.resetReq then .reset
  else
    match s.phase with
    | .polling => .pollOnce
    | .idle =>
      match s.fault with
      | some (k, w) => .haltedByFault k w
      | none =>
        match s.refused with
        | some (r, w) => .haltedByRefusal r w
        | none => portAction s.port

/-- s with one command placed where the command port is read next, and the block free to take it: Idle, no mark, no reset
request (R60; log entry 12). -/
def State.placeCommand (s : State) (c : Command) : State :=
  { s with port := c :: s.port, phase := .idle, fault := none, refused := none, resetReq := false }

end Sys2Proof.Machine
end

