-- ==== Sys2Proof/Machine/Step.lean ====
section
/-! DEFINITION. One step of the block: a reset, a poll step, a command taken from the port and run with all its transactions
(20_memory.md R50, log entry 11), a wait, or a stop. -/

namespace Sys2Proof.Machine

/-- The step. A refused command is taken, sets its mark and does nothing else (60_exceptions.md R180, R183). -/
def step (s : State) : Host.Outcome State Fault Refusal :=
  match s.nextAction with
  | .reset               => .next s.applyReset
  | .pollOnce            => .next s.pollStep
  | .haltedByFault k w   => .fault (.stopped k w)
  | .haltedByRefusal r w => .refused (.stopped r w)
  | .await               => .next s
  | .reject r w          => .next (s.take.refuse r w)
  | .issue i             => exec i s.take

/-- s with the table's word placed at the command port, where step takes its next command (log entry 12). -/
def State.withFetchWord (s : State) (nbits w : Nat) : State := s.placeCommand (commandOfTableWord nbits w)

end Sys2Proof.Machine
end

