-- ==== Sys2Proof/Machine/Asm.lean ====
section
/-! DEFINITION. The assembly language of the command port: 30_encoding.md R65 (one command per line, symbols, the .word
directive) and R66 (pseudo-instructions). Text is a list of characters. What R65 leaves to the reader (blanks, letter case, the
form of a decimal literal) is in log entry 20. -/

namespace Sys2Proof.Machine

/-- What a line assembles to: a command, or the raw word of the .word directive (R65). -/
inductive Stmt where
  | command (i : Instr)
  | word (w : Word)
  deriving DecidableEq, Repr

/-- The two words a statement puts on the command port; .word has opnd = 0 (R65). -/
def Stmt.toCommand : Stmt → Command
  | .command i => encode i
  | .word w    => { cmd := w, opnd := 0#32 }

/-- The outcome of one line. -/
inductive LineResult where
  | blank
  | stmt (s : Stmt)
  | error
  deriving DecidableEq, Repr

/-- What may stand first on a line: the twelve mnemonics and .word (R65), and the pseudo-instructions (R66). -/
inductive Mnemonic where
  | begin | setgain | setrate | readse | readdiff | startse | startdiff | poll | fetch | tovolts | tocount | armcmp
  | read01 | read03 | read13 | read23 | startcont | startone
  | word
  deriving DecidableEq, Repr

/-- Their spellings (R65, R66). -/
def mnemonicTable : List (List Char × Mnemonic) :=
  [("BEGIN".toList, .begin), ("SETGAIN".toList, .setgain), ("SETRATE".toList, .setrate),
   ("READSE".toList, .readse), ("READDIFF".toList, .readdiff), ("STARTSE".toList, .startse),
   ("STARTDIFF".toList, .startdiff), ("POLL".toList, .poll), ("FETCH".toList, .fetch),
   ("TOVOLTS".toList, .tovolts), ("TOCOUNT".toList, .tocount), ("ARMCMP".toList, .armcmp)] ++
  [("READ_0_1".toList, .read01), ("READ_0_3".toList, .read03), ("READ_1_3".toList, .read13),
   ("READ_2_3".toList, .read23), ("STARTCONT".toList, .startcont), ("STARTONE".toList, .startone),
   (".word".toList, .word)]

/-- The symbols of the gain operand with their codes (R65). -/
def gainSymbols : List (List Char × BitVec 3) :=
  [("FSR6144".toList, 0#3), ("FSR4096".toList, 1#3), ("FSR2048".toList, 2#3),
   ("FSR1024".toList, 3#3), ("FSR0512".toList, 4#3), ("FSR0256".toList, 5#3)]

/-- The symbols of the pair operand (R65, R72). -/
def pairSymbols : List (List Char × BitVec 2) :=
  [("P01".toList, 0#2), ("P03".toList, 1#2), ("P13".toList, 2#2), ("P23".toList, 3#2)]

/-- The two words of the cont operand (R65). -/
def contSymbols : List (List Char × Bool) := [("single".toList, false), ("cont".toList, true)]

/-! ## Characters and tokens -/

/-- Space, tab or carriage return. -/
def asmBlank (c : Char) : Bool := c = ' ' || c = '\t' || c = '\r'

/-- The text without its comment: `;` starts one (R65). -/
def asmStripComment (l : List Char) : List Char := l.takeWhile (fun c => c ≠ ';')

/-- The text without blanks at either end. -/
def asmTrim (l : List Char) : List Char := ((l.dropWhile asmBlank).reverse.dropWhile asmBlank).reverse

/-- The parts between commas. -/
def asmSplitComma : List Char → List (List Char)
  | [] => [[]]
  | c :: l =>
    if c = ',' then [] :: asmSplitComma l
    else
      match asmSplitComma l with
      | []      => [[c]]
      | p :: ps => (c :: p) :: ps

/-- The operands after the mnemonic: none if nothing is written, else the trimmed parts between commas. -/
def asmOperands (l : List Char) : List (List Char) :=
  if asmTrim l = [] then [] else (asmSplitComma l).map asmTrim

/-! ## Numbers -/

/-- The value of a hexadecimal digit. -/
def asmHexDigit (c : Char) : Option Nat :=
  if '0' ≤ c ∧ c ≤ '9' then some (c.toNat - '0'.toNat)
  else if 'a' ≤ c ∧ c ≤ 'f' then some (c.toNat - 'a'.toNat + 10)
  else if 'A' ≤ c ∧ c ≤ 'F' then some (c.toNat - 'A'.toNat + 10)
  else none

/-- The value of digits in a base, after those already read. -/
def asmDigitsFrom (base acc : Nat) : List Char → Option Nat
  | [] => some acc
  | c :: l =>
    match asmHexDigit c with
    | none   => none
    | some d => if d < base then asmDigitsFrom base (acc * base + d) l else none

/-- One digit or more in a base. -/
def asmDigits (base : Nat) (l : List Char) : Option Nat :=
  if l = [] then none else asmDigitsFrom base 0 l

/-- `0xHHHHHHHH`: exactly eight hexadecimal digits (R65). -/
def asmHexWord : List Char → Option Word
  | '0' :: 'x' :: l => if l.length = 8 then (asmDigits 16 l).map (BitVec.ofNat 32) else none
  | _               => none

/-- An integer operand: decimal, optionally signed, or 0x hex (R65). -/
def asmInt : List Char → Option Int
  | '0' :: 'x' :: l => (asmDigits 16 l).map Int.ofNat
  | '-' :: l        => (asmDigits 10 l).map (fun n => -(n : Int))
  | '+' :: l        => (asmDigits 10 l).map Int.ofNat
  | l               => (asmDigits 10 l).map Int.ofNat

/-- An integer operand in a range. -/
def asmIntIn (lo hi : Int) (l : List Char) : Option Int :=
  match asmInt l with
  | none   => none
  | some i => if lo ≤ i ∧ i ≤ hi then some i else none

/-- An unsigned decimal literal: digits, and optionally a point and more digits. -/
def asmDecimal (l : List Char) : Option Rat :=
  match l.dropWhile (fun c => c ≠ '.') with
  | []     => (asmDigits 10 l).map (fun n => (n : Rat))
  | _ :: f =>
    match asmDigits 10 (l.takeWhile (fun c => c ≠ '.')), asmDigits 10 f with
    | some a, some b => some ((a : Rat) + mkRat b (10 ^ f.length))
    | _, _           => none

/-- A voltage operand: `bits:0xHHHHHHHH`, or a decimal literal, optionally signed, rounded by rne32 (R65). -/
def asmVolts : List Char → Option Word
  | 'b' :: 'i' :: 't' :: 's' :: ':' :: l => asmHexWord l
  | '-' :: l                             => (asmDecimal l).map (fun x => rne32 (-x))
  | '+' :: l                             => (asmDecimal l).map rne32
  | l                                    => (asmDecimal l).map rne32

/-! ## Symbolic operands (R65) -/

/-- A gain: its symbol, or a code 0 to 5 (the codes 6 and 7 are refused encodings, which only .word writes, R65). -/
def asmGain (l : List Char) : Option (BitVec 3) :=
  match gainSymbols.lookup l with
  | some k => some k
  | none   => (asmIntIn 0 5 l).map (BitVec.ofInt 3)

/-- A pair: its symbol or a code. -/
def asmPair (l : List Char) : Option (BitVec 2) :=
  match pairSymbols.lookup l with
  | some p => some p
  | none   => (asmIntIn 0 3 l).map (BitVec.ofInt 2)

/-- `single` or `cont`. -/
def asmCont (l : List Char) : Option Bool := contSymbols.lookup l

/-- A channel, 0 to 255. -/
def asmChannel (l : List Char) : Option Byte := (asmIntIn 0 255 l).map (BitVec.ofInt 8)

/-- A count or threshold, -32768 to 32767. -/
def asmCount (l : List Char) : Option Half := (asmIntIn (-32768) 32767 l).map (BitVec.ofInt 16)

/-! ## Statements -/

/-- A mnemonic without operands. -/
def asmNone (ops : List (List Char)) (i : Stmt) : Option Stmt :=
  match ops with
  | []     => some i
  | _ :: _ => none

/-- A mnemonic with one operand. -/
def asmOne {α : Type} (ops : List (List Char)) (p : List Char → Option α) (mk : α → Stmt) : Option Stmt :=
  match ops with
  | [x] => (p x).map mk
  | _   => none

/-- A mnemonic with two operands. -/
def asmTwo {α β : Type} (ops : List (List Char)) (p : List Char → Option α) (q : List Char → Option β)
    (mk : α → β → Stmt) : Option Stmt :=
  match ops with
  | [x, y] =>
    match p x, q y with
    | some a, some b => some (mk a b)
    | _, _           => none
  | _ => none

/-- One statement: a mnemonic of R65, a pseudo-instruction of R66 expanding to one command, or the .word directive. -/
def asmStmt (m : Mnemonic) (ops : List (List Char)) : Option Stmt :=
  match m with
  | .begin     => asmOne ops (asmIntIn 0 127) (fun a => .command (.begin (BitVec.ofInt 7 a)))
  | .setgain   => asmOne ops asmGain (fun k => .command (.setgain k))
  | .setrate   => asmOne ops (asmIntIn 0 7) (fun k => .command (.setrate (BitVec.ofInt 3 k)))
  | .readse    => asmOne ops asmChannel (fun ch => .command (.readse ch))
  | .readdiff  => asmOne ops asmPair (fun p => .command (.readdiff p))
  | .startse   => asmTwo ops asmChannel asmCont (fun ch cont => .command (.startse ch cont))
  | .startdiff => asmTwo ops asmPair asmCont (fun p cont => .command (.startdiff p cont))
  | .poll      => asmNone ops (.command .poll)
  | .fetch     => asmNone ops (.command .fetch)
  | .tovolts   => asmOne ops asmCount (fun n => .command (.tovolts n))
  | .tocount   => asmOne ops asmVolts (fun v => .command (.tocount v))
  | .armcmp    => asmTwo ops asmChannel asmCount (fun ch t => .command (.armcmp ch t))
  | .read01    => asmNone ops (.command (.readdiff 0#2))
  | .read03    => asmNone ops (.command (.readdiff 1#2))
  | .read13    => asmNone ops (.command (.readdiff 2#2))
  | .read23    => asmNone ops (.command (.readdiff 3#2))
  | .startcont => asmOne ops asmChannel (fun ch => .command (.startse ch true))
  | .startone  => asmOne ops asmChannel (fun ch => .command (.startse ch false))
  | .word      => asmOne ops asmHexWord Stmt.word

/-- One line of assembly text (R65). -/
def asmLine (line : List Char) : LineResult :=
  let l := asmTrim (asmStripComment line)
  if l = [] then .blank
  else
    match mnemonicTable.lookup (l.takeWhile (fun c => !asmBlank c)) with
    | none   => .error
    | some m =>
      match asmStmt m (asmOperands (l.dropWhile (fun c => !asmBlank c))) with
      | none   => .error
      | some s => .stmt s

/-- A program of lines, as the commands to offer in order (R65); none if a line is in error. -/
def assemble : List (List Char) → Option (List Command)
  | [] => some []
  | l :: ls =>
    match asmLine l, assemble ls with
    | .blank, some cs  => some cs
    | .stmt s, some cs => some (s.toCommand :: cs)
    | .error, _        => none
    | _, none          => none

end Sys2Proof.Machine
end

