-- ==== Sys2Proof/Safety.lean ====
section
/-! DEFINITION. What the statements say of states: a legal history, legal responses, truthful marks, and the invariant of the
block; and which fields the block's own commands may touch. -/

namespace Sys2Proof.Machine

/-- The pointers the block writes: CFG, LO, HI and never CONV (20_memory.md R41, 30_encoding.md R78). -/
def writablePtr (p : Byte) : Bool := p == ptrCfg || p == ptrLo || p == ptrHi

/-- The pointers the block reads: CFG and CONV, never LO or HI (20_memory.md R41, 30_encoding.md R79). -/
def readablePtr (p : Byte) : Bool := p == ptrCfg || p == ptrConv

/-- A history made of whole register accesses alone (R40, R43, R44, R46): an Open, a 3-byte Write of a writable register, or a
1-byte pointer Write of a readable one followed at once by the Read at the same device address. -/
def historyLegal : List BusEvent → Bool
  | []                                   => true
  | .openDev _ :: t                      => historyLegal t
  | .write _ [p, _, _] :: t              => writablePtr p && historyLegal t
  | .write a [p] :: .read a' _ _ :: t    => a == a' && readablePtr p && historyLegal t
  | _ :: _                               => false

/-- How many Reads a history holds. -/
def readCount : List BusEvent → Nat
  | []                 => 0
  | .read _ _ _ :: t   => readCount t + 1
  | .openDev _ :: t    => readCount t
  | .write _ _ :: t    => readCount t

/-- The encoding of a response (30_encoding.md R67): None 0, Bool 0 or 1, Count the sign extension of its low half. A Volts
response is any binary32 here; what it is, is the business of the statements about TOVOLTS. -/
def responseLegal (r : Response) : Bool :=
  match r.kind with
  | .none  => r.rsp == 0#32
  | .count => r.rsp == (r.rsp.extractLsb' 0 16).signExtend 32
  | .bool  => r.rsp == 0#32 || r.rsp == 1#32
  | .volts => true

/-- A fault mark names a command that needs the device (60_exceptions.md R181, R182). -/
def faultTruthful (f : Option (FaultKind × Word)) : Bool :=
  match f with
  | none => true
  | some (.notOpen, w) =>
    match decode { cmd := w, opnd := 0#32 } with
    | .ok i    => i.needsOpen
    | .error _ => false

/-- A refusal mark names a word that the decoder refuses for that very reason (60_exceptions.md R180). -/
def refusalTruthful (f : Option (RefusalReason × Word)) : Bool :=
  match f with
  | none => true
  | some (r, w) =>
    match decode { cmd := w, opnd := 0#32 } with
    | .ok _     => false
    | .error r' => r == r'

/-- The invariant of the block. -/
structure State.Inv (s : State) : Prop where
  /-- Every transaction so far belongs to a whole, legal register access. -/
  history_legal : historyLegal s.history = true
  /-- Every response so far is encoded as R67 says. -/
  responses_legal : s.responses.all responseLegal = true
  /-- cmdIndex counts completed commands, each of which responded (R27, R67). -/
  index_le : s.cmdIndex ≤ s.responses.length
  /-- The free device answers are indexed by the Reads made. -/
  reads_eq : s.reads = readCount s.history
  /-- Polling is entered only by a blocking read of an open block (R26, R130, R131), and no mark is set then (R60). -/
  polling_open : s.phase = .polling → s.opened = true ∧ s.fault = none ∧ s.refused = none
  /-- A stopped block takes no command, so it never gets a second mark (R184.1). -/
  one_mark : s.fault = none ∨ s.refused = none
  /-- NotOpen is raised only while the block is not open, and no BEGIN is taken after it (R182, R184.1). -/
  fault_closed : s.fault ≠ none → s.opened = false
  fault_truthful : faultTruthful s.fault = true
  refusal_truthful : refusalTruthful s.refused = true

/-- The kind of the response each command gives when it finishes (30_encoding.md R68). READSE and READDIFF give theirs from the
poll step, or from the channel guard. -/
def rspKindOf : Instr → RspKind
  | .begin _       => .none
  | .setgain _     => .none
  | .setrate _     => .none
  | .readse _      => .count
  | .readdiff _    => .count
  | .startse _ _   => .none
  | .startdiff _ _ => .none
  | .poll          => .bool
  | .fetch         => .count
  | .tovolts _     => .volts
  | .tocount _     => .count
  | .armcmp _ _    => .none

/-- The selector a blocking read converts (41_conversion.md R130, R131); none for a guarded channel and for other commands. -/
def blockingSelector : Instr → Option Selector
  | .begin _       => none
  | .setgain _     => none
  | .setrate _     => none
  | .readse ch     => (channelGuard ch).map .single
  | .readdiff p    => some (.diff p)
  | .startse _ _   => none
  | .startdiff _ _ => none
  | .poll          => none
  | .fetch         => none
  | .tovolts _     => none
  | .tocount _     => none
  | .armcmp _ _    => none

/-- The block is stopped by a mark (60_exceptions.md R180, R181). -/
abbrev State.Stopped (s : State) : Prop := s.fault ≠ none ∨ s.refused ≠ none

/-- The block can take a command: Idle, no mark (30_encoding.md R60), and no reset is requested. -/
abbrev State.Ready (s : State) : Prop :=
  s.resetReq = false ∧ s.phase = .idle ∧ s.fault = none ∧ s.refused = none

end Sys2Proof.Machine
end

