-- ==== Sys2Proof/Certificates/Slice0/Obligations.lean ====
section
/-! DEFINITION. The statements for the provers, each from the spec's numbered rules. -/

open Sys2Proof Sys2Proof.Machine

/-! ## Encoding: 30_encoding.md Part A -/

/-- R62, R63: every well-formed instruction, every operand at every value, is what the decoder reads from its words. -/
def Obligations.DecodeOfEncodeIsIdentity : Prop :=
  ∀ i : Instr, i.WellFormed → decode (encode i) = .ok i

/-- R60, R62, R63: whatever the decoder accepts is the encoding of what it answers; opnd is kept where it is read. -/
def Obligations.EncodeOfDecodeIsTheWord : Prop :=
  ∀ (c : Command) (i : Instr), decode c = .ok i →
    (encode i).cmd = c.cmd ∧ ((∃ v, i = .tocount v) → encode i = c)

/-- R64: the decoder refuses exactly the reserved encodings, each by its reason, and accepts all others (hints, custom space
and a channel above 3 among the accepted or reserved words as the rule says). The slices are cmd[27:x] of R62. -/
def Obligations.DecoderRefusesExactlyReserved : Prop :=
  ∀ c : Command,
    let op := (c.cmd.extractLsb' 28 4).toNat
    let reserved := op = 0 ∨ 12 ≤ op
    let oneInZeroBit :=
      (op = 1 ∧ c.cmd.extractLsb' 7 21 ≠ 0) ∨
      ((op = 2 ∨ op = 3) ∧ c.cmd.extractLsb' 3 25 ≠ 0) ∨
      (op = 4 ∧ c.cmd.extractLsb' 8 20 ≠ 0) ∨
      (op = 5 ∧ c.cmd.extractLsb' 2 26 ≠ 0) ∨
      (op = 6 ∧ c.cmd.extractLsb' 10 18 ≠ 0) ∨
      (op = 6 ∧ c.cmd.getLsbD 8 = true ∧ c.cmd.extractLsb' 2 6 ≠ 0) ∨
      ((op = 7 ∨ op = 8 ∨ op = 10) ∧ c.cmd.extractLsb' 0 28 ≠ 0) ∨
      (op = 9 ∧ c.cmd.extractLsb' 16 12 ≠ 0) ∨
      (op = 11 ∧ c.cmd.extractLsb' 24 4 ≠ 0)
    let gainAbove := op = 2 ∧ c.cmd.extractLsb' 3 25 = 0 ∧ 5 < (c.cmd.extractLsb' 0 3).toNat
    (decode c = .error .reservedOpcode ↔ reserved) ∧
    (decode c = .error .reservedBits ↔ oneInZeroBit) ∧
    (decode c = .error .reservedGain ↔ gainAbove) ∧
    ((∃ i, decode c = .ok i) ↔ ¬ reserved ∧ ¬ oneInZeroBit ∧ ¬ gainAbove)

/-- What the decoder answers is well-formed, so no meaning sees a gain code 6 or 7 (R64(c), R73). -/
def Obligations.DecodedInstructionIsWellFormed : Prop :=
  ∀ (c : Command) (i : Instr), decode c = .ok i → i.WellFormed

/-- R60: opnd is read for TOCOUNT (opcode 0xA) alone; its value changes nothing elsewhere. -/
def Obligations.OperandWordIgnoredButForTocount : Prop :=
  ∀ cmd o o' : Word, cmd.extractLsb' 28 4 ≠ 0xA#4 →
    decode { cmd := cmd, opnd := o } = decode { cmd := cmd, opnd := o' }

/-- Words of 95_test_vectors.md 2.1, one for each command, with the instruction the vector names. TOCOUNT's word is given with the
operand of V3; that its opnd stands in bits 63:32 of the table word is the model's choice (log entry 23). -/
def Obligations.SpecCommandWordsDecode : Prop :=
  decodeTableWord 32 0x10000048 = some (.begin 0x48#7) ∧
  decodeTableWord 32 0x20000005 = some (.setgain 5#3) ∧
  decodeTableWord 32 0x30000007 = some (.setrate 7#3) ∧
  decodeTableWord 32 0x400000FF = some (.readse 255#8) ∧
  decodeTableWord 32 0x50000003 = some (.readdiff 3#2) ∧
  decodeTableWord 32 0x60000202 = some (.startse 2#8 true) ∧
  decodeTableWord 32 0x60000101 = some (.startdiff 1#2 false) ∧
  decodeTableWord 32 0x70000000 = some .poll ∧
  decodeTableWord 32 0x80000000 = some .fetch ∧
  decodeTableWord 32 0x90008000 = some (.tovolts (bits16 (-32768))) ∧
  decodeTableWord 64 0x40C49BA6A0000000 = some (.tocount 0x40C49BA6#32) ∧
  decodeTableWord 32 0xB0FFFFFF = some (.armcmp 255#8 (bits16 (-1))) ∧
  decodeTableWord 32 0xC0000001 = none

/-- R65: .word "is the only way to write a reserved or refused encoding": what a command line assembles to, the decoder accepts
as that very command. That SETGAIN takes 0 to 5 in the assembler is our reading of that sentence (log entry 20). -/
def Obligations.AssembledCommandIsAccepted : Prop :=
  ∀ (line : List Char) (i : Instr), asmLine line = .stmt (.command i) →
    decode (Stmt.toCommand (.command i)) = .ok i

/-- R66: the six pseudo-instructions, by their spellings, are one command each, and beside the twelve mnemonics and .word there
are no others. -/
def Obligations.PseudoInstructionsExpand : Prop :=
  asmLine "READ_0_1".toList = .stmt (.command (.readdiff 0#2)) ∧
  asmLine "READ_0_3".toList = .stmt (.command (.readdiff 1#2)) ∧
  asmLine "READ_1_3".toList = .stmt (.command (.readdiff 2#2)) ∧
  asmLine "READ_2_3".toList = .stmt (.command (.readdiff 3#2)) ∧
  mnemonicTable.lookup "STARTCONT".toList = some .startcont ∧
  mnemonicTable.lookup "STARTONE".toList = some .startone ∧
  (∀ ch : List Char, asmStmt .startcont [ch] = asmStmt .startse [ch, "cont".toList]) ∧
  (∀ ch : List Char, asmStmt .startone [ch] = asmStmt .startse [ch, "single".toList]) ∧
  mnemonicTable.map Prod.fst =
    ["BEGIN".toList, "SETGAIN".toList, "SETRATE".toList, "READSE".toList, "READDIFF".toList, "STARTSE".toList,
     "STARTDIFF".toList, "POLL".toList, "FETCH".toList, "TOVOLTS".toList, "TOCOUNT".toList, "ARMCMP".toList,
     "READ_0_1".toList, "READ_0_3".toList, "READ_1_3".toList, "READ_2_3".toList, "STARTCONT".toList,
     "STARTONE".toList, ".word".toList]

/-! ## The sequencer: 10_state.md, 60_exceptions.md -/

/-- R60, R25: in a free block the first offered command is taken and run; the step adds to exec only the taking of the command.
Where nothing is offered the block waits in Idle (R200; log entry 8). -/
def Obligations.StepRunsDecodedCommand : Prop :=
  ∀ s : State, s.Ready →
    (∀ (c : Command) (rest : List Command) (i : Instr), s.port = c :: rest → decode c = .ok i →
      step s = exec i { s with port := rest }) ∧
    (s.port = [] → step s = .next s)

/-- R180, R183: a refused command leaves its mark and nothing else; that it leaves the port is log entry 9. -/
def Obligations.RefusedCommandSetsOnlyItsMark : Prop :=
  ∀ (s : State) (c : Command) (rest : List Command) (r : RefusalReason),
    s.Ready → s.port = c :: rest → decode c = .error r →
      step s = .next { s with port := rest, refused := some (r, c.cmd) }

/-- R180, R181, R184.1: a stopped block takes no command, whatever is offered, and only reset lets it go on. The model's choices in
it: the step answers a stop, as the form of "stuck" (log entry 7); with both marks, which no run reaches, the stop named is the
fault's (log entry 19); reset keeps what is at the port (log entry 10). -/
def Obligations.StoppedBlockTakesNoCommand : Prop :=
  ∀ s : State, s.phase = .idle →
    (∀ k w, s.resetReq = false → s.fault = some (k, w) → step s = .fault (.stopped k w)) ∧
    (∀ r w, s.resetReq = false → s.fault = none → s.refused = some (r, w) → step s = .refused (.stopped r w)) ∧
    (s.resetReq = true → ∃ t, step s = .next t ∧ t.fault = none ∧ t.refused = none ∧ t.port = s.port)

/-- R200: reset applied at any time sets the fields the rule lists, keeps the profile, and issues no transaction. What else a
reset keeps (parameters, responses, port, answers) is the model's choice (log entry 10). -/
def Obligations.ResetRestoresStatedValues : Prop :=
  ∀ s : State, s.resetReq = true →
    ∃ t, step s = .next t ∧ t.gain = .fsr6144 ∧ gainCode t.gain = 0#3 ∧ t.rate = s.profile.defaultRate ∧
      t.opened = false ∧ t.phase = .idle ∧ t.cmdIndex = 0 ∧ t.fault = none ∧ t.refused = none ∧
      t.profile = s.profile ∧ t.params = s.params ∧ t.history = s.history ∧ t.responses = s.responses ∧
      t.port = s.port ∧ t.oracle = s.oracle

/-- R31, R200: construction leaves the same values with every profile and parameters, nothing observed; and the invariant holds. -/
def Obligations.ConstructionHasInvariant : Prop :=
  ∀ (p : Profile) (q : Params), (State.resetWith p q).Inv ∧
    (State.resetWith p q).profile = p ∧ (State.resetWith p q).params = q ∧
    gainCode (State.resetWith p q).gain = 0#3 ∧ (State.resetWith p q).rate = p.defaultRate ∧
    (State.resetWith p q).opened = false ∧ (State.resetWith p q).phase = .idle ∧
    (State.resetWith p q).cmdIndex = 0 ∧ (State.resetWith p q).fault = none ∧ (State.resetWith p q).refused = none ∧
    (State.resetWith p q).history = []

/-- Every step keeps the invariant: only whole legal register accesses on the bus (R40, R41, R43, R44, R46), responses encoded as
R67 says, Polling only when open and unmarked (R26, R60), truthful sticky marks, never two (R180 to R184). -/
def Obligations.StepKeepsInvariant : Prop :=
  ∀ s t : State, s.Inv → step s = .next t → t.Inv

/-- R20, R7: no step writes the profile or the parameters. -/
def Obligations.ProfileAndParamsNeverChange : Prop :=
  ∀ s t : State, step s = .next t → t.profile = s.profile ∧ t.params = s.params

/-- R21: only SETGAIN (and reset) writes the gain register. -/
def Obligations.OnlySetgainWritesGain : Prop :=
  ∀ s t : State, s.resetReq = false → step s = .next t → t.gain ≠ s.gain →
    ∃ c rest k, s.port = c :: rest ∧ decode c = .ok (.setgain k) ∧ gainCode t.gain = k

/-- R22: only SETRATE (and reset) writes the rate register. -/
def Obligations.OnlySetrateWritesRate : Prop :=
  ∀ s t : State, s.resetReq = false → step s = .next t → t.rate ≠ s.rate →
    ∃ c rest k, s.port = c :: rest ∧ decode c = .ok (.setrate k) ∧ t.rate = k

/-- R24: only BEGIN (and reset) writes devAddr and opened. -/
def Obligations.OnlyBeginWritesAddress : Prop :=
  ∀ s t : State, s.resetReq = false → step s = .next t → t.devAddr ≠ s.devAddr ∨ t.opened ≠ s.opened →
    ∃ c rest a, s.port = c :: rest ∧ decode c = .ok (.begin a) ∧ t.devAddr = a ∧ t.opened = true

/-- R27, R67, R68: a step finishes at most one command; then cmdIndex advances by one, the phase is Idle and exactly one
response of the command's kind, legally encoded, is driven; otherwise there is no response and cmdIndex stays. -/
def Obligations.FinishedCommandRespondsOnce : Prop :=
  ∀ s t : State, s.resetReq = false → step s = .next t →
    (t.cmdIndex = s.cmdIndex + 1 ∧ t.phase = .idle ∧ t.fault = s.fault ∧ t.refused = s.refused ∧
      ∃ r, t.responses = s.responses ++ [r] ∧ responseLegal r = true ∧
        ((s.phase = .polling ∧ r.kind = .count) ∨ ∃ i, s.nextAction = .issue i ∧ r.kind = rspKindOf i)) ∨
    (t.cmdIndex = s.cmdIndex ∧ t.responses = s.responses)

/-! ## The poll loop: 41_conversion.md R132 -/

/-- R132: one CFG read; if its bit 15 is set, one CONV read, the decoded count as the response, and Idle; else no other effect.
No command is taken (R25). -/
def Obligations.PollStepReadsStatus : Prop :=
  ∀ s : State, s.resetReq = false → s.phase = .polling →
    let a := s.nextAnswer
    let u : State := { s with
      history := s.history ++ [.write s.devAddr [0x01#8], .read s.devAddr a.1 a.2]
      oracle := s.oracle.tail
      reads := s.reads + 1 }
    let b := u.nextAnswer
    ((a.1 ++ a.2).getLsbD 15 = false → step s = .next u) ∧
    ((a.1 ++ a.2).getLsbD 15 = true → step s = .next { u with
      history := u.history ++ [.write s.devAddr [0x00#8], .read s.devAddr b.1 b.2]
      oracle := u.oracle.tail
      reads := u.reads + 1
      responses := s.responses ++
        [{ kind := .count, rsp := (decodeSample (b.1 ++ b.2) s.profile.resolution).signExtend 32 }]
      cmdIndex := s.cmdIndex + 1
      phase := .idle })

/-- R132, R209: the loop has no bound. For every list of not-ready answers, however long, the block makes that many poll steps,
is still Polling, has not responded and has taken nothing from the port. -/
def Obligations.PollLoopHasNoBound : Prop :=
  ∀ (s : State) (busy later : List (Byte × Byte)), s.resetReq = false → s.phase = .polling →
    (∀ a ∈ busy, (a.1 ++ a.2).getLsbD 15 = false) → s.oracle = busy ++ later →
      Host.Core.run core busy.length s = .next ({ s with
        history := s.history ++
          busy.flatMap (fun a => [.write s.devAddr [0x01#8], .read s.devAddr a.1 a.2])
        oracle := later
        reads := s.reads + busy.length } : State)

/-- R130, R131, R132: a blocking read from its taking to its response, after any number of not-ready answers: the three writes,
the poll reads, one CONV read, one Count response, and nothing else changed. -/
def Obligations.BlockingReadReturnsSample : Prop :=
  ∀ (s : State) (c : Command) (rest : List Command) (i : Instr) (sel : Selector)
    (busy later : List (Byte × Byte)) (ready conv : Byte × Byte),
    s.Ready → s.opened = true → s.port = c :: rest → decode c = .ok i → blockingSelector i = some sel →
    (∀ a ∈ busy, (a.1 ++ a.2).getLsbD 15 = false) → (ready.1 ++ ready.2).getLsbD 15 = true →
    s.oracle = busy ++ ready :: conv :: later →
      Host.Core.run core (busy.length + 2) s = .next ({ s with
        port := rest
        history := s.history ++
          [.write s.devAddr [0x03#8, hiByte s.params.rdyHi, loByte s.params.rdyHi],
           .write s.devAddr [0x02#8, hiByte s.params.rdyLo, loByte s.params.rdyLo],
           .write s.devAddr [0x01#8, hiByte (cfgRead sel false s.gain s.rate), loByte (cfgRead sel false s.gain s.rate)]] ++
          busy.flatMap (fun a => [.write s.devAddr [0x01#8], .read s.devAddr a.1 a.2]) ++
          [.write s.devAddr [0x01#8], .read s.devAddr ready.1 ready.2,
           .write s.devAddr [0x00#8], .read s.devAddr conv.1 conv.2]
        oracle := later
        reads := s.reads + busy.length + 2
        responses := s.responses ++
          [{ kind := .count, rsp := (decodeSample (conv.1 ++ conv.2) s.profile.resolution).signExtend 32 }]
        cmdIndex := s.cmdIndex + 1 } : State)

/-! ## The commands: files 40 to 43. Each equation gives the whole next state, so also the frame. -/

/-- R100: one Open, devAddr and opened; any address; no opened check. -/
def Obligations.BeginOpensAndSetsAddress : Prop :=
  ∀ (a : BitVec 7) (s : State), exec (.begin a) s = .next { s with
    history := s.history ++ [.openDev a]
    devAddr := a
    opened := true
    responses := s.responses ++ [{ kind := .none, rsp := 0#32 }]
    cmdIndex := s.cmdIndex + 1
    phase := .idle }

/-- R101: the six codes select the six ranges; codes 6 and 7 are refused with ReservedGain. No bus, no BEGIN needed. -/
def Obligations.SetgainSelectsRange : Prop :=
  ∀ (k : BitVec 3) (s : State),
    (∀ g, gainCode g = k → exec (.setgain k) s = .next { s with
      gain := g
      responses := s.responses ++ [{ kind := .none, rsp := 0#32 }]
      cmdIndex := s.cmdIndex + 1
      phase := .idle }) ∧
    (k.toNat ≤ 5 → ∃ g, gainCode g = k) ∧
    (5 < k.toNat → s.refused = none → exec (.setgain k) s = .next { s with
      refused := some (.reservedGain, 0x2#4 ++ 0#25 ++ k) })

/-- R102: every code is accepted and held. No bus, no BEGIN needed. -/
def Obligations.SetrateHoldsCode : Prop :=
  ∀ (k : BitVec 3) (s : State), exec (.setrate k) s = .next { s with
    rate := k
    responses := s.responses ++ [{ kind := .none, rsp := 0#32 }]
    cmdIndex := s.cmdIndex + 1
    phase := .idle }

/-- R126, R122: HI, LO, CFG in this order, then None; no read, no wait. The clauses on a channel above 3 and on a closed block
are ChannelGuardIsSilent and NotOpenStopsBusCommands. -/
def Obligations.StartsSingleEndedReading : Prop :=
  ∀ (ch : Byte) (cont : Bool) (s : State), ch.toNat ≤ 3 → s.opened = true →
    let w := cfgRead (.single (ch.setWidth 2)) cont s.gain s.rate
    exec (.startse ch cont) s = .next { s with
      history := s.history ++
        [.write s.devAddr [0x03#8, s.params.rdyHi.extractLsb' 8 8, s.params.rdyHi.extractLsb' 0 8],
         .write s.devAddr [0x02#8, s.params.rdyLo.extractLsb' 8 8, s.params.rdyLo.extractLsb' 0 8],
         .write s.devAddr [0x01#8, w.extractLsb' 8 8, w.extractLsb' 0 8]]
      responses := s.responses ++ [{ kind := .none, rsp := 0#32 }]
      cmdIndex := s.cmdIndex + 1
      phase := .idle }

/-- R127, R122: the same three writes for a pair; every pair is valid. -/
def Obligations.StartsDifferentialReading : Prop :=
  ∀ (p : BitVec 2) (cont : Bool) (s : State), s.opened = true →
    let w := cfgRead (.diff p) cont s.gain s.rate
    exec (.startdiff p cont) s = .next { s with
      history := s.history ++
        [.write s.devAddr [0x03#8, s.params.rdyHi.extractLsb' 8 8, s.params.rdyHi.extractLsb' 0 8],
         .write s.devAddr [0x02#8, s.params.rdyLo.extractLsb' 8 8, s.params.rdyLo.extractLsb' 0 8],
         .write s.devAddr [0x01#8, w.extractLsb' 8 8, w.extractLsb' 0 8]]
      responses := s.responses ++ [{ kind := .none, rsp := 0#32 }]
      cmdIndex := s.cmdIndex + 1
      phase := .idle }

/-- R128: a pointer write of CFG, a read, and bit 15 as a Bool; bits 14:0 are ignored. -/
def Obligations.PollReportsNotBusyBit : Prop :=
  ∀ s : State, s.opened = true →
    exec .poll s = .next { s with
      history := s.history ++ [.write s.devAddr [0x01#8], .read s.devAddr s.nextAnswer.1 s.nextAnswer.2]
      oracle := s.oracle.tail
      reads := s.reads + 1
      responses := s.responses ++
        [{ kind := .bool, rsp := if s.nextAnswer.1.getLsbD 7 then 1#32 else 0#32 }]
      cmdIndex := s.cmdIndex + 1
      phase := .idle }

/-- R129: a pointer write of CONV, a read, and the decoded count; no check of completion. -/
def Obligations.FetchRespondsDecodedSample : Prop :=
  ∀ s : State, s.opened = true →
    exec .fetch s = .next { s with
      history := s.history ++ [.write s.devAddr [0x00#8], .read s.devAddr s.nextAnswer.1 s.nextAnswer.2]
      oracle := s.oracle.tail
      reads := s.reads + 1
      responses := s.responses ++
        [{ kind := .count,
           rsp := (decodeSample (s.nextAnswer.1 ++ s.nextAnswer.2) s.profile.resolution).signExtend 32 }]
      cmdIndex := s.cmdIndex + 1
      phase := .idle }

/-- R130: the three writes in single-shot mode, then Polling; no response yet. -/
def Obligations.ReadseWritesSetupAndPolls : Prop :=
  ∀ (ch : Byte) (s : State), ch.toNat ≤ 3 → s.opened = true →
    let w := cfgRead (.single (ch.setWidth 2)) false s.gain s.rate
    exec (.readse ch) s = .next { s with
      history := s.history ++
        [.write s.devAddr [0x03#8, s.params.rdyHi.extractLsb' 8 8, s.params.rdyHi.extractLsb' 0 8],
         .write s.devAddr [0x02#8, s.params.rdyLo.extractLsb' 8 8, s.params.rdyLo.extractLsb' 0 8],
         .write s.devAddr [0x01#8, w.extractLsb' 8 8, w.extractLsb' 0 8]]
      phase := .polling }

/-- R131: the three writes in single-shot mode, then Polling; no response yet. -/
def Obligations.ReaddiffWritesSetupAndPolls : Prop :=
  ∀ (p : BitVec 2) (s : State), s.opened = true →
    let w := cfgRead (.diff p) false s.gain s.rate
    exec (.readdiff p) s = .next { s with
      history := s.history ++
        [.write s.devAddr [0x03#8, s.params.rdyHi.extractLsb' 8 8, s.params.rdyHi.extractLsb' 0 8],
         .write s.devAddr [0x02#8, s.params.rdyLo.extractLsb' 8 8, s.params.rdyLo.extractLsb' 0 8],
         .write s.devAddr [0x01#8, w.extractLsb' 8 8, w.extractLsb' 0 8]]
      phase := .polling }

/-- R152, R151, R156, R205: the one rounding of the exact product of the count and R32[g] / 2^(15 - s), at the gain register's
value now; no bus, no BEGIN. -/
def Obligations.TovoltsRespondsVoltage : Prop :=
  ∀ (n : Half) (s : State),
    exec (.tovolts n) s = .next { s with
      responses := s.responses ++
        [{ kind := .volts, rsp := rne32 ((n.toInt : Rat) * (range32 s.gain / 2 ^ (15 - shiftOf s.profile.resolution))) }]
      cmdIndex := s.cmdIndex + 1
      phase := .idle }

/-- R153, R156: the count of the operand at the gain register's value now; no bus, no BEGIN; a NaN uses up one draw. The second
part says what that count is where the quotient, rounded to binary32, is a number y: with q the clamp of y, the integer nearest q,
the even one of two equally near (nearestEven), or q without its fraction (towardZero). The other values are in
TocountSpecialInputs and TocountSaturates. -/
def Obligations.TocountRespondsCount : Prop :=
  ∀ (v : Word) (s : State),
    exec (.tocount v) s = .next { s with
      nanDraws := if isNaN v then s.nanDraws + 1 else s.nanDraws
      responses := s.responses ++
        [{ kind := .count,
           rsp := (toCount s.params.cntRound (Config.nanCount s.nanDraws) v s.gain
             (shiftOf s.profile.resolution)).signExtend 32 }]
      cmdIndex := s.cmdIndex + 1
      phase := .idle } ∧
    ∀ (x y : Rat) (mode : CntRound) (nan : Half) (g : Gain) (r : Resolution), Binary32.ofBits v = .finite x →
      Binary32.ofBits (rne32 (x / (range32 g / 2 ^ (15 - shiftOf r)))) = .finite y →
      let q : Rat := min (max y (-32768)) 32767
      let c : Int := (toCount mode nan v g (shiftOf r)).toInt
      (mode = .nearestEven → |q - c| ≤ 1 / 2 ∧ (|q - c| = 1 / 2 → c % 2 = 0)) ∧
      (mode = .towardZero → |(c : Rat)| ≤ |q| ∧ |q - c| < 1 ∧ 0 ≤ q * c)

/-- R171, R170: LO = 0x8000, then HI = the clamped and shifted threshold, then CFG = the comparator word; None. -/
def Obligations.ArmcmpWritesThresholds : Prop :=
  ∀ (ch : Byte) (t : Half) (s : State), ch.toNat ≤ 3 → s.opened = true →
    let h := thrWord t (shiftOf s.profile.resolution)
    let w := cfgCmp s.params.cmpSetOs (ch.setWidth 2) s.gain s.rate
    exec (.armcmp ch t) s = .next { s with
      history := s.history ++
        [.write s.devAddr [0x02#8, 0x80#8, 0x00#8],
         .write s.devAddr [0x03#8, h.extractLsb' 8 8, h.extractLsb' 0 8],
         .write s.devAddr [0x01#8, w.extractLsb' 8 8, w.extractLsb' 0 8]]
      responses := s.responses ++ [{ kind := .none, rsp := 0#32 }]
      cmdIndex := s.cmdIndex + 1
      phase := .idle }

/-- R125: a channel above 3 gives no transaction and no word, before the NotOpen check: Count 0 from READSE, None from STARTSE and
ARMCMP, opened or not. -/
def Obligations.ChannelGuardIsSilent : Prop :=
  ∀ (ch : Byte) (cont : Bool) (t : Half) (s : State), 3 < ch.toNat →
    exec (.readse ch) s = .next { s with
      responses := s.responses ++ [{ kind := .count, rsp := 0#32 }]
      cmdIndex := s.cmdIndex + 1
      phase := .idle } ∧
    exec (.startse ch cont) s = .next { s with
      responses := s.responses ++ [{ kind := .none, rsp := 0#32 }]
      cmdIndex := s.cmdIndex + 1
      phase := .idle } ∧
    exec (.armcmp ch t) s = .next { s with
      responses := s.responses ++ [{ kind := .none, rsp := 0#32 }]
      cmdIndex := s.cmdIndex + 1
      phase := .idle }

/-! ## Stops and the bus as a whole -/

/-- R182: NotOpen is raised by exactly the commands that would issue a transaction while opened = 0, before the first one; its mark
holds the command word. No other command, and no command of an open block, raises it. -/
def Obligations.NotOpenStopsBusCommands : Prop :=
  ∀ (i : Instr) (s : State),
    (i.needsOpen = true → s.opened = false → s.fault = none →
      exec i s = .next { s with fault := some (.notOpen, (encode i).cmd) }) ∧
    (i.needsOpen = false ∨ s.opened = true → ∃ t, exec i s = .next t ∧ t.fault = s.fault)

/-- R181: raising in a block that already has a fault mark leaves the mark, and everything else, as it is. -/
def Obligations.FirstFaultMarkIsKept : Prop :=
  ∀ (s : State) (k k' : FaultKind) (w w' : Word),
    (s.fault = none → s.raise k w = { s with fault := some (k, w) }) ∧
    (s.fault = some (k', w') → s.raise k w = s) ∧
    (s.refused = none → ∀ r, s.refuse r w = { s with refused := some (r, w) }) ∧
    (∀ r r', s.refused = some (r', w') → s.refuse r w = s)

/-- R183: the state after a refusal or fault is the state before the command, with the mark set (and the command gone from the
port, log entry 9). -/
def Obligations.StopHasNoPartialEffect : Prop :=
  ∀ s t : State, s.resetReq = false → step s = .next t → t.fault ≠ s.fault ∨ t.refused ≠ s.refused →
    t = { s with port := s.port.tail, fault := t.fault, refused := t.refused }

/-- R184: the earlier check wins. A reserved opcode (0, or 12 and above) whatever the other bits; a must-be-zero bit before the
gain code, and before the channel guard and NotOpen in the three commands with a channel; the channel guard of READSE, STARTSE and
ARMCMP before NotOpen, open or not; NotOpen for a channel up to 3 on a closed block. That a stopped block takes nothing (R184.1) is
StoppedBlockTakesNoCommand. That the command leaves the port is log entry 9. -/
def Obligations.ChecksApplyInOrder : Prop :=
  ∀ (s : State) (c : Command) (rest : List Command), s.Ready → s.port = c :: rest →
    let op := (c.cmd.extractLsb' 28 4).toNat
    let readse := c.cmd.extractLsb' 8 24 = 0x400000#24
    let startse := c.cmd.extractLsb' 10 22 = 0x180000#22 ∧ c.cmd.getLsbD 8 = false
    let armcmp := c.cmd.extractLsb' 24 8 = 0xB0#8
    let low := (c.cmd.extractLsb' 0 8).toNat
    let mid := (c.cmd.extractLsb' 16 8).toNat
    let silent (k : RspKind) : State := { s with
      port := rest
      responses := s.responses ++ [{ kind := k, rsp := 0#32 }]
      cmdIndex := s.cmdIndex + 1
      phase := .idle }
    (op = 0 ∨ 12 ≤ op → step s = .next { s with port := rest, refused := some (.reservedOpcode, c.cmd) }) ∧
    (op = 2 ∧ c.cmd.extractLsb' 3 25 ≠ 0 ∧ 5 < (c.cmd.extractLsb' 0 3).toNat ∨
      op = 4 ∧ c.cmd.extractLsb' 8 20 ≠ 0 ∨ op = 6 ∧ c.cmd.extractLsb' 10 18 ≠ 0 ∨ op = 11 ∧ c.cmd.extractLsb' 24 4 ≠ 0 →
      step s = .next { s with port := rest, refused := some (.reservedBits, c.cmd) }) ∧
    (readse → 3 < low → step s = .next (silent .count)) ∧
    (startse → 3 < low → step s = .next (silent .none)) ∧
    (armcmp → 3 < mid → step s = .next (silent .none)) ∧
    (((readse ∨ startse) ∧ low ≤ 3) ∨ (armcmp ∧ mid ≤ 3) → s.opened = false →
      step s = .next { s with port := rest, fault := some (.notOpen, c.cmd) })

/-- R40, R50: a step only appends to the history, and every transaction it appends is sent to devAddr; an Open is BEGIN's, with the
address it sets. -/
def Obligations.EveryTransactionUsesDeviceAddress : Prop :=
  ∀ s t : State, step s = .next t → ∃ es, t.history = s.history ++ es ∧ ∀ e ∈ es,
    match e with
    | .openDev a  => t.devAddr = a ∧ t.opened = true
    | .write a _  => a = s.devAddr
    | .read a _ _ => a = s.devAddr

/-- R182: until a BEGIN has run, nothing but BEGIN's Open reaches the bus. -/
def Obligations.ClosedBlockTouchesNoDevice : Prop :=
  ∀ s t : State, s.opened = false → s.phase = .idle → step s = .next t →
    ∃ es, t.history = s.history ++ es ∧ ∀ e ∈ es, ∃ a, e = .openDev a

/-- R24, R201: the value of devAddr before BEGIN cannot be observed. Two blocks that differ in it alone, not open, step alike: same
stop, or next states that differ in devAddr at most, and not even there once one of them is open. -/
def Obligations.DevAddrUnobservableBeforeBegin : Prop :=
  ∀ (s : State) (a : BitVec 7), s.opened = false → s.phase = .idle →
    match step s, step { s with devAddr := a } with
    | .next t, .next t'      => t' = { t with devAddr := t'.devAddr } ∧ (t.opened = true → t' = t)
    | .fault f, .fault f'    => f = f'
    | .refused r, .refused r' => r = r'
    | _, _                   => False

/-- R43: RegWrite is exactly one transaction of three bytes, pointer, high byte, low byte. -/
def Obligations.RegWriteIsOneBigEndianWrite : Prop :=
  ∀ (s : State) (ptr : Byte) (w : Half), ∃ hi lo : Byte,
    hi ++ lo = w ∧ s.regWrite ptr w = { s with history := s.history ++ [.write s.devAddr [ptr, hi, lo]] }

/-- R44: RegRead is a one-byte pointer write, then a two-byte read whose first byte is the high one: b0 * 256 + b1. -/
def Obligations.RegReadIsPointerWriteThenRead : Prop :=
  ∀ (s : State) (ptr : Byte), ∃ b0 b1 : Byte,
    s.nextAnswer = (b0, b1) ∧ (s.regRead ptr).1.toNat = b0.toNat * 256 + b1.toNat ∧
    (s.regRead ptr).2 = { s with
      history := s.history ++ [.write s.devAddr [ptr], .read s.devAddr b0 b1]
      oracle := s.oracle.tail
      reads := s.reads + 1 }

/-- R47: any word may be read, at any read. -/
def Obligations.AnyDeviceWordCanBeRead : Prop :=
  ∀ (s : State) (ptr : Byte) (w : Half), ∃ a : Byte × Byte, (({ s with oracle := a :: s.oracle } : State).regRead ptr).1 = w

/-- R51, R207: the pointers of the writes of the two paths, in their order. -/
def Obligations.WriteOrderOfEachPath : Prop :=
  ∀ (s : State) (sel : Selector) (cont : Bool) (c : BitVec 2) (t : Half),
    (∃ h0 h1 l0 l1 c0 c1, (s.startSeq sel cont).history = s.history ++
      [.write s.devAddr [0x03#8, h0, h1], .write s.devAddr [0x02#8, l0, l1], .write s.devAddr [0x01#8, c0, c1]]) ∧
    (∃ l0 l1 h0 h1 c0 c1, (s.armSeq c t).history = s.history ++
      [.write s.devAddr [0x02#8, l0, l1], .write s.devAddr [0x03#8, h0, h1], .write s.devAddr [0x01#8, c0, c1]])

/-! ## Words and numbers -/

/-- R123, R72: every field of the read-path CFG word. -/
def Obligations.ConfigWordFields : Prop :=
  ∀ (sel : Selector) (cont : Bool) (g : Gain) (r : BitVec 3),
    let w := cfgRead sel cont g r
    w.getLsbD 15 = true ∧
    (∀ c, sel = .single c → (w.extractLsb' 12 3).toNat = 4 + c.toNat) ∧
    (∀ p, sel = .diff p → (w.extractLsb' 12 3).toNat = p.toNat) ∧
    w.extractLsb' 9 3 = gainCode g ∧
    w.getLsbD 8 = !cont ∧
    w.extractLsb' 5 3 = r ∧
    w.extractLsb' 0 5 = 0#5

/-- R172: every field of the comparator word. -/
def Obligations.ComparatorWordFields : Prop :=
  ∀ (os : Bool) (c : BitVec 2) (g : Gain) (r : BitVec 3),
    let w := cfgCmp os c g r
    cfgOs w = os ∧ (cfgMux w).toNat = 4 + c.toNat ∧ cfgPga w = gainCode g ∧ cfgMode w = false ∧ cfgDr w = r ∧
      cfgCompMode w = false ∧ cfgCompPol w = false ∧ cfgCompLat w = true ∧ cfgCompQue w = 0#2

/-- R103 (the spec's own derivation from R101, R102): gain and rate change bits 11:9 and 7:5 of a word and no others, on both paths. -/
def Obligations.GainAndRateTouchOnlyTheirFields : Prop :=
  ∀ (sel : Selector) (cont os : Bool) (c : BitVec 2) (g g' : Gain) (r r' : BitVec 3),
    cfgRead sel cont g r &&& 0xF11F#16 = cfgRead sel cont g' r' &&& 0xF11F#16 ∧
    cfgCmp os c g r &&& 0xF11F#16 = cfgCmp os c g' r' &&& 0xF11F#16 ∧
    cfgRead sel cont g r &&& 0x0EE0#16 = (gainCode g).setWidth 16 <<< 9 ||| r.setWidth 16 <<< 5 ∧
    cfgCmp os c g r &&& 0x0EE0#16 = (gainCode g).setWidth 16 <<< 9 ||| r.setWidth 16 <<< 5

/-- R121 (the spec's own derivation from its pseudocode), R133: decode is the sign extension of raw[15:4] for s = 4 and raw itself for s = 0; its range; the padding is ignored. -/
def Obligations.SampleDecodeIsSignExtension : Prop :=
  ∀ raw raw' : Half,
    decodeSample raw .bits16 = raw ∧
    decodeSample raw .bits12 = (raw.extractLsb' 4 12).signExtend 16 ∧
    (-2048 ≤ (decodeSample raw .bits12).toInt ∧ (decodeSample raw .bits12).toInt ≤ 2047) ∧
    (raw.extractLsb' 4 12 = raw'.extractLsb' 4 12 → decodeSample raw .bits12 = decodeSample raw' .bits12)

/-- R173: the clamp, then the shift, which never wraps; the low bits are zero; for s = 0 the clamp changes nothing. -/
def Obligations.ThresholdClampedBeforeShift : Prop :=
  ∀ t : Half,
    thrWord t (shiftOf .bits16) = t ∧
    (thrWord t (shiftOf .bits12)).toInt = (min (max t.toInt (-2048)) 2047) * 16 ∧
    (thrWord t (shiftOf .bits12)).extractLsb' 0 4 = 0#4 ∧
    (0 ≤ t.toInt → (thrWord t (shiftOf .bits12)).getLsbD 15 = false) ∧
    (t.toInt < 0 → (thrWord t (shiftOf .bits12)).getLsbD 15 = true)

/-- R170 (the spec's own derivation from R173): the low threshold is the encoded most-negative count of either resolution. -/
def Obligations.ComparatorLowThresholdServesBoth : Prop :=
  ∀ r : Resolution,
    cmpLoThresh = 0x8000#16 ∧ thrWord (bits16 (-(32768 / 2 ^ shiftOf r))) (shiftOf r) = cmpLoThresh ∧
    bits16 (-(32768 / 2 ^ shiftOf r) * 2 ^ shiftOf r) = cmpLoThresh

/-- R150: each LUT entry, under its gain code, is the binary32 nearest its decimal range. -/
def Obligations.RangeTableIsNearestBinary32 : Prop :=
  (∀ g : Gain, rangeBits g = rne32 (rangeDecimal g) ∧ Binary32.ofBits (rangeBits g) = .finite (range32 g)) ∧
  (gainCode .fsr6144 = 0#3 ∧ rangeDecimal .fsr6144 = 6144 / 1000 ∧ rangeBits .fsr6144 = 0x40C49BA6#32) ∧
  (gainCode .fsr4096 = 1#3 ∧ rangeDecimal .fsr4096 = 4096 / 1000 ∧ rangeBits .fsr4096 = 0x4083126F#32) ∧
  (gainCode .fsr2048 = 2#3 ∧ rangeDecimal .fsr2048 = 2048 / 1000 ∧ rangeBits .fsr2048 = 0x4003126F#32) ∧
  (gainCode .fsr1024 = 3#3 ∧ rangeDecimal .fsr1024 = 1024 / 1000 ∧ rangeBits .fsr1024 = 0x3F83126F#32) ∧
  (gainCode .fsr0512 = 4#3 ∧ rangeDecimal .fsr0512 = 512 / 1000 ∧ rangeBits .fsr0512 = 0x3F03126F#32) ∧
  (gainCode .fsr0256 = 5#3 ∧ rangeDecimal .fsr0256 = 256 / 1000 ∧ rangeBits .fsr0256 = 0x3E83126F#32)

/-- R151 (the spec's own derivation from R150): the LSB is R32[g] / 2^(15 - s), positive, exactly a binary32, with the significand of R32[g] and an exponent less by
15 - s (so its bits are R32[g]'s less (15 - s) * 2^23, which are the bits of the rule's table). -/
def Obligations.LsbIsExact : Prop :=
  ∀ (g : Gain) (r : Resolution),
    lsb g (shiftOf r) = range32 g / 2 ^ (15 - shiftOf r) ∧ 0 < lsb g (shiftOf r) ∧
    Binary32.ofBits (rne32 (lsb g (shiftOf r))) = .finite (lsb g (shiftOf r)) ∧
    (rne32 (lsb g (shiftOf r))).extractLsb' 0 23 = (rangeBits g).extractLsb' 0 23 ∧
    (rne32 (lsb g (shiftOf r))).toNat = (rangeBits g).toNat - (15 - shiftOf r) * 2 ^ 23

/-- R10: rne32 is roundTiesToEven. Its result is never NaN; it is Inf of the sign of x exactly from 2^128 - 2^103 on; else it is a
nearest binary32, and of two equally near the one with the even significand. -/
def Obligations.RneRoundsToNearestEven : Prop :=
  ∀ x : Rat,
    match Binary32.ofBits (rne32 x) with
    | .nan      => False
    | .inf neg  => (2 : Rat) ^ 128 - 2 ^ 103 ≤ |x| ∧ (neg = true ↔ x < 0)
    | .finite y => |x| < (2 : Rat) ^ 128 - 2 ^ 103 ∧ ∀ (w : Word) (z : Rat), Binary32.ofBits w = .finite z →
        |x - y| ≤ |x - z| ∧ (|x - y| = |x - z| → z ≠ y → (rne32 x).getLsbD 0 = false)

/-- R152, R185(e): TOVOLTS never gives a NaN, an infinity or a subnormal other than zero; the count 0 gives +0.0; the most negative
count gives exactly -R32[g] * 2^s; the largest decoded count (32767 or 2047) gives R32[g] - LSB(g, s), rounded, which is not
exact in general (C9). -/
def Obligations.TovoltsResultIsNormal : Prop :=
  ∀ (n : Half) (g : Gain) (r : Resolution),
    (match Binary32.ofBits (toVolts n g (shiftOf r)) with
      | .nan      => False
      | .inf _    => False
      | .finite y => (n ≠ 0#16 → 1 / (2 : Rat) ^ 126 ≤ |y|) ∧ (0 < y ↔ 0 < n.toInt) ∧ (y < 0 ↔ n.toInt < 0)) ∧
    toVolts 0#16 g (shiftOf r) = 0#32 ∧
    Binary32.ofBits (toVolts (bits16 (-32768)) g (shiftOf r)) = .finite (-(range32 g * 2 ^ shiftOf r)) ∧
    toVolts (bits16 (32767 / 2 ^ shiftOf r)) g (shiftOf r) =
      rne32 (range32 g - range32 g / 2 ^ (15 - shiftOf r))

/-- R154: with nearestEven, toCount undoes toVolts for every count in the representable range, so the source's law holds; with
towardZero it does not (c = 3 at gain 0 on the 16-bit profile). -/
def Obligations.RoundTripOfCounts : Prop :=
  (∀ (g : Gain) (r : Resolution) (c nan : Half),
    (r = .bits12 → -2048 ≤ c.toInt ∧ c.toInt ≤ 2047) →
      toCount .nearestEven nan (toVolts c g (shiftOf r)) g (shiftOf r) = c ∧
      toVolts (toCount .nearestEven nan (toVolts c g (shiftOf r)) g (shiftOf r)) g (shiftOf r) =
        toVolts c g (shiftOf r)) ∧
  toCount .towardZero 0#16 (toVolts 3#16 .fsr6144 0) .fsr6144 0 = 2#16 ∧
  toVolts 2#16 .fsr6144 0 ≠ toVolts 3#16 .fsr6144 0

/-- R153, R185(c): a voltage at or beyond the 16-bit range saturates, never wraps, at both resolutions and both roundings. -/
def Obligations.TocountSaturates : Prop :=
  ∀ (mode : CntRound) (nan : Half) (v : Word) (g : Gain) (r : Resolution) (x : Rat),
    Binary32.ofBits v = .finite x →
    (32768 * lsb g (shiftOf r) ≤ x → toCount mode nan v g (shiftOf r) = bits16 32767) ∧
    (x ≤ -32768 * lsb g (shiftOf r) → toCount mode nan v g (shiftOf r) = bits16 (-32768))

/-- R155: NaN gives the draw, whatever it is, and the next NaN takes the next draw; the infinities saturate; zeros and subnormals
give 0. -/
def Obligations.TocountSpecialInputs : Prop :=
  ∀ (mode : CntRound) (nan : Half) (v : Word) (g : Gain) (r : Resolution),
    (v.extractLsb' 23 8 = 255#8 → v.extractLsb' 0 23 ≠ 0 →
      toCount mode nan v g (shiftOf r) = nan ∧
      ∀ s : State, ∃ t, exec (.tocount v) s = .next t ∧ t.nanDraws = s.nanDraws + 1 ∧
        t.responses = s.responses ++ [{ kind := .count, rsp := (Config.nanCount s.nanDraws).signExtend 32 }]) ∧
    toCount mode nan 0x7F800000#32 g (shiftOf r) = bits16 32767 ∧
    toCount mode nan 0xFF800000#32 g (shiftOf r) = bits16 (-32768) ∧
    (v.extractLsb' 23 8 = 0#8 → toCount mode nan v g (shiftOf r) = 0#16)

/-- R101 from the command word: cmd[27:3] not zero is refused, then k = 6 or 7, else the gain is set, with no bus traffic and
without BEGIN. -/
def Obligations.SetgainWordAtThePort : Prop :=
  ∀ (s : State) (c : Command) (rest : List Command), s.Ready → s.port = c :: rest →
    c.cmd.extractLsb' 28 4 = 0x2#4 →
    (c.cmd.extractLsb' 3 25 ≠ 0 →
      step s = .next { s with port := rest, refused := some (.reservedBits, c.cmd) }) ∧
    (c.cmd.extractLsb' 3 25 = 0 → 5 < (c.cmd.extractLsb' 0 3).toNat →
      step s = .next { s with port := rest, refused := some (.reservedGain, c.cmd) }) ∧
    (c.cmd.extractLsb' 3 25 = 0 → ∀ g, gainCode g = c.cmd.extractLsb' 0 3 →
      step s = .next { s with
        port := rest
        gain := g
        responses := s.responses ++ [{ kind := .none, rsp := 0#32 }]
        cmdIndex := s.cmdIndex + 1
        phase := .idle })
end

