-- ==== Sys2Proof/Laws/Codec.lean ====
section
/-! SUPPORT. The word functions of Machine/Codec.lean and the operand forms, one lemma per function. -/

namespace Sys2Proof.Machine

@[simp] theorem shiftOf_bits16 : shiftOf .bits16 = 0 := rfl

@[simp] theorem shiftOf_bits12 : shiftOf .bits12 = 4 := rfl

@[simp] theorem mux_single (c : BitVec 2) : mux (.single c) = 0b100#3 + c.setWidth 3 := rfl

@[simp] theorem mux_diff (p : BitVec 2) : mux (.diff p) = p.setWidth 3 := rfl

/-- On the unshifted path the raw word is the count (41_conversion.md R121). -/
theorem decodeSample_bits16 (raw : Half) : decodeSample raw .bits16 = raw := by
  simp [decodeSample]

/-- The shifted path, as the pseudocode writes it (41_conversion.md R121). -/
theorem decodeSample_bits12 (raw : Half) :
    decodeSample raw .bits12 = if 0x07FF < (raw >>> 4).toNat then raw >>> 4 ||| 0xF000#16 else raw >>> 4 := rfl

/-- bits16 is exact on the Int16 range (00_scope.md R9). -/
theorem bits16_toInt {i : Int} (hl : -32768 ≤ i) (hu : i ≤ 32767) : (bits16 i).toInt = i := by
  rw [bits16, BitVec.toInt_ofInt]
  simp [Int.bmod]
  omega

/-- A clamped value lies between the bounds (00_scope.md R9). -/
theorem clampInt_mem {x lo hi : Int} (h : lo ≤ hi) : lo ≤ clampInt x lo hi ∧ clampInt x lo hi ≤ hi := by
  unfold clampInt
  omega

/-- A value between the bounds is kept. -/
theorem clampInt_of_mem {x lo hi : Int} (hl : lo ≤ x) (hu : x ≤ hi) : clampInt x lo hi = x := by
  unfold clampInt
  omega

end Sys2Proof.Machine
end

