-- ==== Sys2Proof/Laws/Decode.lean ====
section
/-! SUPPORT. What an answer of the decoder says, for the proofs to cite instead of unfolding it. -/

namespace Sys2Proof

/-- A word has no one under a mask of consecutive bits exactly when that slice of it is zero. -/
theorem and_mask_eq_zero_iff (w m : Word) (lo len : Nat) (hl : lo + len ≤ 32)
    (hm : ∀ j, j < 32 → m.getLsbD j = decide (lo ≤ j ∧ j < lo + len)) :
    w &&& m = 0#32 ↔ w.extractLsb' lo len = 0#len := by
  constructor
  · intro h
    apply BitVec.eq_of_getLsbD_eq
    intro j hj
    have hb := congrArg (fun x => x.getLsbD (lo + j)) h
    have hd : decide (lo ≤ lo + j ∧ lo + j < lo + len) = true := by
      rw [decide_eq_true_eq]
      omega
    simp only [BitVec.getLsbD_and, hm (lo + j) (by omega), hd, Bool.and_true, BitVec.getLsbD_zero] at hb
    rw [BitVec.getLsbD_extractLsb', hb]
    simp
  · intro h
    apply BitVec.eq_of_getLsbD_eq
    intro j hj
    rw [BitVec.getLsbD_and, hm j hj, BitVec.getLsbD_zero]
    by_cases hb : lo ≤ j ∧ j < lo + len
    · have hw := congrArg (fun x => x.getLsbD (j - lo)) h
      have hd : decide (j - lo < len) = true := by
        rw [decide_eq_true_eq]
        omega
      simp only [BitVec.getLsbD_extractLsb', BitVec.getLsbD_zero, hd, Bool.true_and] at hw
      rw [show lo + (j - lo) = j by omega] at hw
      rw [hw, Bool.false_and]
    · simp [hb]

/-- An accepted command has an assigned opcode, no one in its must-be-zero bits, no reserved gain, and R63's operands. -/
theorem decode_ok {c : Command} {i : Instr} (h : decode c = .ok i) :
    ∃ op, Op.ofCmd c.cmd = some op ∧ c.cmd &&& op.mustBeZero = 0#32 ∧ op.gainReserved c.cmd = false ∧
      i = op.operands c := by
  unfold decode at h
  split at h
  · cases h
  · rename_i op hop
    split at h
    · cases h
    · rename_i hz
      split at h
      · cases h
      · rename_i hg
        cases h
        exact ⟨op, hop, by simpa using hz, by simpa using hg, rfl⟩

/-- A refusal depends on cmd alone (60_exceptions.md R183). -/
theorem decode_error_of_cmd {c : Command} {r : RefusalReason} (h : decode c = .error r) (o : Word) :
    decode { cmd := c.cmd, opnd := o } = .error r := by
  unfold decode at h ⊢
  dsimp only
  repeat' split at h
  all_goals simp_all

end Sys2Proof
end

