-- ==== Sys2Proof/Laws/Float.lean ====
section
/-! SUPPORT. The real arithmetic of the scale converter: what each function of Machine/Float.lean does, for the proofs to cite. -/

namespace Sys2Proof.Machine

/-! ## Powers of two -/

theorem pow2_eq (e : Int) : pow2 e = (2 : ℚ) ^ e := by
  cases e with
  | ofNat n => simp [pow2]
  | negSucc n => simp [pow2, Rat.mkRat_eq_div, zpow_negSucc]

theorem pow2_pos (e : Int) : 0 < pow2 e := by
  rw [pow2_eq]
  positivity

theorem pow2_add (a b : Int) : pow2 (a + b) = pow2 a * pow2 b := by
  simp only [pow2_eq]
  exact zpow_add₀ (by norm_num) a b

theorem pow2_neg_mul (e : Int) : pow2 (-e) * pow2 e = 1 := by
  rw [← pow2_add]
  simp [pow2_eq]

theorem pow2_le {a b : Int} (h : a ≤ b) : pow2 a ≤ pow2 b := by
  simp only [pow2_eq]
  exact zpow_le_zpow_right₀ (by norm_num) h

/-- floorLog2 x is the exponent of the leading bit of x. -/
theorem floorLog2_spec {x : ℚ} (hx : 0 < x) : pow2 (floorLog2 x) ≤ x ∧ x < pow2 (floorLog2 x + 1) := by
  have hn : x.num.natAbs ≠ 0 := by
    have := Rat.num_pos.2 hx
    omega
  have hd : x.den ≠ 0 := x.den_nz
  have e : x = (x.num.natAbs : ℚ) / (x.den : ℚ) := by
    have h0 : (x.num.natAbs : ℤ) = x.num := by
      have := Rat.num_pos.2 hx
      omega
    have h1 : (x.num.natAbs : ℚ) = (x.num : ℚ) := by rw [← Int.cast_natCast, h0]
    rw [h1]
    exact (Rat.num_div_den x).symm
  have dpos : (0 : ℚ) < x.den := by exact_mod_cast Nat.pos_of_ne_zero hd
  have n1 : (2 : ℚ) ^ (Nat.log2 x.num.natAbs) ≤ x.num.natAbs := by exact_mod_cast Nat.log2_self_le hn
  have n2 : (x.num.natAbs : ℚ) < 2 ^ (Nat.log2 x.num.natAbs + 1) := by exact_mod_cast Nat.lt_log2_self
  have d1 : (2 : ℚ) ^ (Nat.log2 x.den) ≤ x.den := by exact_mod_cast Nat.log2_self_le hd
  have d2 : (x.den : ℚ) < 2 ^ (Nat.log2 x.den + 1) := by exact_mod_cast Nat.lt_log2_self
  generalize hk : ((Nat.log2 x.num.natAbs : Int) - (Nat.log2 x.den : Int)) = k
  have pk : pow2 k * 2 ^ (Nat.log2 x.den) = (2 : ℚ) ^ (Nat.log2 x.num.natAbs) := by
    rw [pow2_eq, ← hk, zpow_sub₀ (by norm_num : (2 : ℚ) ≠ 0)]
    simp
  have hup : x < pow2 (k + 1) := by
    have : pow2 (k + 1) = pow2 k * 2 := by rw [pow2_add]; congr 1
    rw [this]
    conv_lhs => rw [e]
    rw [div_lt_iff₀ dpos]
    have hp := pow2_pos k
    calc (x.num.natAbs : ℚ) < 2 ^ (Nat.log2 x.num.natAbs + 1) := n2
      _ = pow2 k * 2 * 2 ^ (Nat.log2 x.den) := by rw [pow_succ, ← pk]; ring
      _ ≤ pow2 k * 2 * x.den := by gcongr
  have hlo : pow2 (k - 1) ≤ x := by
    have h2 : pow2 k = pow2 (k - 1) * 2 := by
      have := pow2_add (k - 1) 1
      rw [show k - 1 + 1 = k by ring] at this
      rw [this]; congr 1
    have hp := pow2_pos (k - 1)
    conv_rhs => rw [e]
    rw [le_div_iff₀ dpos]
    calc pow2 (k - 1) * x.den ≤ pow2 (k - 1) * 2 ^ (Nat.log2 x.den + 1) := by gcongr
      _ = pow2 k * 2 ^ (Nat.log2 x.den) := by rw [h2, pow_succ]; ring
      _ = 2 ^ (Nat.log2 x.num.natAbs) := pk
      _ ≤ x.num.natAbs := n1
  unfold floorLog2
  simp only [hk]
  split
  · exact ⟨by assumption, hup⟩
  · rename_i h
    refine ⟨hlo, ?_⟩
    rw [show k - 1 + 1 = k by ring]
    exact not_le.1 h

/-! ## Rounding to an integer -/

/-- The result of round-half-even is the floor or the one above it. -/
theorem toInteger_nearestEven_cases (x : ℚ) :
    (toInteger .nearestEven x = ⌊x⌋ ∧ x - ⌊x⌋ ≤ 1 / 2) ∨
    (toInteger .nearestEven x = ⌊x⌋ + 1 ∧ 1 / 2 ≤ x - ⌊x⌋) := by
  have hfl : x.floor = ⌊x⌋ := rfl
  have hm : mkRat 1 2 = (1 / 2 : ℚ) := by rw [Rat.mkRat_eq_div]; norm_num
  simp only [toInteger, hfl, hm]
  split
  · exact .inl ⟨rfl, le_of_lt (by assumption)⟩
  · split
    · exact .inr ⟨rfl, le_of_lt (by assumption)⟩
    · split
      · exact .inl ⟨rfl, not_lt.1 (by assumption)⟩
      · exact .inr ⟨rfl, not_lt.1 (by assumption)⟩

/-- Round-half-even errs by a half at most. -/
theorem toInteger_nearestEven_error (x : ℚ) : |x - toInteger .nearestEven x| ≤ 1 / 2 := by
  have h0 := Int.floor_le x
  have h1 := Int.lt_floor_add_one x
  rcases toInteger_nearestEven_cases x with ⟨h, hb⟩ | ⟨h, hb⟩ <;> rw [h, abs_le] <;> push_cast <;>
    constructor <;> linarith

/-- A tie goes to the even integer. -/
theorem toInteger_nearestEven_tie {x : ℚ} (h : x - ⌊x⌋ = 1 / 2) : toInteger .nearestEven x % 2 = 0 := by
  have hfl : x.floor = ⌊x⌋ := rfl
  have hm : mkRat 1 2 = (1 / 2 : ℚ) := by rw [Rat.mkRat_eq_div]; norm_num
  simp only [toInteger, hfl, hm, h, lt_irrefl, if_false]
  split <;> omega

/-- An integer is its own rounding, in both modes. -/
theorem toInteger_intCast (mode : CntRound) (n : ℤ) : toInteger mode (n : ℚ) = n := by
  cases mode with
  | nearestEven =>
    rcases toInteger_nearestEven_cases (n : ℚ) with ⟨h, -⟩ | ⟨-, hb⟩
    · rw [h, Int.floor_intCast]
    · rw [Int.floor_intCast] at hb
      norm_num at hb
  | towardZero =>
    have hfl : ∀ y : ℚ, y.floor = ⌊y⌋ := fun _ => rfl
    simp only [toInteger, hfl]
    split
    · rw [← Int.cast_neg, Int.floor_intCast, neg_neg]
    · rw [Int.floor_intCast]

/-- An integer within less than a half of x is the rounding of x. -/
theorem toInteger_nearestEven_unique {x : ℚ} {n : ℤ} (h : |x - n| < 1 / 2) : toInteger .nearestEven x = n := by
  have he := toInteger_nearestEven_error x
  rw [abs_le] at he
  rw [abs_lt] at h
  have h1 : ((toInteger .nearestEven x - n : ℤ) : ℚ) < 1 := by push_cast; linarith
  have h2 : (-1 : ℚ) < ((toInteger .nearestEven x - n : ℤ) : ℚ) := by push_cast; linarith
  have h1' : toInteger .nearestEven x - n < 1 := by exact_mod_cast h1
  have h2' : -1 < toInteger .nearestEven x - n := by exact_mod_cast h2
  omega

/-! ## The range table -/

/-- The LSB of R151 with an ordinary power of two. -/
theorem lsb_eq (g : Gain) (r : Resolution) : lsb g (shiftOf r) = range32 g / 2 ^ (15 - shiftOf r) := by
  rw [lsb, pow2_eq]
  cases r <;> norm_num [shiftOf]

end Sys2Proof.Machine
end

