-- ==== Sys2Proof/Laws/State.lean ====
section
/-! SUPPORT. What each primitive update of State does to each field, one lemma per field, so that no later proof unfolds a
record update. -/

namespace Sys2Proof.Machine

variable (s : State)

/-! ### State.emit -/

@[simp] theorem State.emit_profile (e : BusEvent) : (s.emit e).profile = s.profile := rfl
@[simp] theorem State.emit_params (e : BusEvent) : (s.emit e).params = s.params := rfl
@[simp] theorem State.emit_gain (e : BusEvent) : (s.emit e).gain = s.gain := rfl
@[simp] theorem State.emit_rate (e : BusEvent) : (s.emit e).rate = s.rate := rfl
@[simp] theorem State.emit_devAddr (e : BusEvent) : (s.emit e).devAddr = s.devAddr := rfl
@[simp] theorem State.emit_opened (e : BusEvent) : (s.emit e).opened = s.opened := rfl
@[simp] theorem State.emit_phase (e : BusEvent) : (s.emit e).phase = s.phase := rfl
@[simp] theorem State.emit_cmdIndex (e : BusEvent) : (s.emit e).cmdIndex = s.cmdIndex := rfl
@[simp] theorem State.emit_fault (e : BusEvent) : (s.emit e).fault = s.fault := rfl
@[simp] theorem State.emit_refused (e : BusEvent) : (s.emit e).refused = s.refused := rfl
@[simp] theorem State.emit_history (e : BusEvent) : (s.emit e).history = s.history ++ [e] := rfl
@[simp] theorem State.emit_responses (e : BusEvent) : (s.emit e).responses = s.responses := rfl
@[simp] theorem State.emit_port (e : BusEvent) : (s.emit e).port = s.port := rfl
@[simp] theorem State.emit_oracle (e : BusEvent) : (s.emit e).oracle = s.oracle := rfl
@[simp] theorem State.emit_resetReq (e : BusEvent) : (s.emit e).resetReq = s.resetReq := rfl
@[simp] theorem State.emit_reads (e : BusEvent) : (s.emit e).reads = s.reads := rfl
@[simp] theorem State.emit_nanDraws (e : BusEvent) : (s.emit e).nanDraws = s.nanDraws := rfl

/-! ### State.dropAnswer -/

@[simp] theorem State.dropAnswer_profile : (s.dropAnswer).profile = s.profile := rfl
@[simp] theorem State.dropAnswer_params : (s.dropAnswer).params = s.params := rfl
@[simp] theorem State.dropAnswer_gain : (s.dropAnswer).gain = s.gain := rfl
@[simp] theorem State.dropAnswer_rate : (s.dropAnswer).rate = s.rate := rfl
@[simp] theorem State.dropAnswer_devAddr : (s.dropAnswer).devAddr = s.devAddr := rfl
@[simp] theorem State.dropAnswer_opened : (s.dropAnswer).opened = s.opened := rfl
@[simp] theorem State.dropAnswer_phase : (s.dropAnswer).phase = s.phase := rfl
@[simp] theorem State.dropAnswer_cmdIndex : (s.dropAnswer).cmdIndex = s.cmdIndex := rfl
@[simp] theorem State.dropAnswer_fault : (s.dropAnswer).fault = s.fault := rfl
@[simp] theorem State.dropAnswer_refused : (s.dropAnswer).refused = s.refused := rfl
@[simp] theorem State.dropAnswer_history : (s.dropAnswer).history = s.history := rfl
@[simp] theorem State.dropAnswer_responses : (s.dropAnswer).responses = s.responses := rfl
@[simp] theorem State.dropAnswer_port : (s.dropAnswer).port = s.port := rfl
@[simp] theorem State.dropAnswer_oracle : (s.dropAnswer).oracle = s.oracle.tail := rfl
@[simp] theorem State.dropAnswer_resetReq : (s.dropAnswer).resetReq = s.resetReq := rfl
@[simp] theorem State.dropAnswer_reads : (s.dropAnswer).reads = s.reads + 1 := rfl
@[simp] theorem State.dropAnswer_nanDraws : (s.dropAnswer).nanDraws = s.nanDraws := rfl

/-! ### State.respond -/

@[simp] theorem State.respond_profile (k : RspKind) (w : Word) : (s.respond k w).profile = s.profile := rfl
@[simp] theorem State.respond_params (k : RspKind) (w : Word) : (s.respond k w).params = s.params := rfl
@[simp] theorem State.respond_gain (k : RspKind) (w : Word) : (s.respond k w).gain = s.gain := rfl
@[simp] theorem State.respond_rate (k : RspKind) (w : Word) : (s.respond k w).rate = s.rate := rfl
@[simp] theorem State.respond_devAddr (k : RspKind) (w : Word) : (s.respond k w).devAddr = s.devAddr := rfl
@[simp] theorem State.respond_opened (k : RspKind) (w : Word) : (s.respond k w).opened = s.opened := rfl
@[simp] theorem State.respond_phase (k : RspKind) (w : Word) : (s.respond k w).phase = s.phase := rfl
@[simp] theorem State.respond_cmdIndex (k : RspKind) (w : Word) : (s.respond k w).cmdIndex = s.cmdIndex := rfl
@[simp] theorem State.respond_fault (k : RspKind) (w : Word) : (s.respond k w).fault = s.fault := rfl
@[simp] theorem State.respond_refused (k : RspKind) (w : Word) : (s.respond k w).refused = s.refused := rfl
@[simp] theorem State.respond_history (k : RspKind) (w : Word) : (s.respond k w).history = s.history := rfl
@[simp] theorem State.respond_responses (k : RspKind) (w : Word) : (s.respond k w).responses = s.responses ++ [{ kind := k, rsp := w }] := rfl
@[simp] theorem State.respond_port (k : RspKind) (w : Word) : (s.respond k w).port = s.port := rfl
@[simp] theorem State.respond_oracle (k : RspKind) (w : Word) : (s.respond k w).oracle = s.oracle := rfl
@[simp] theorem State.respond_resetReq (k : RspKind) (w : Word) : (s.respond k w).resetReq = s.resetReq := rfl
@[simp] theorem State.respond_reads (k : RspKind) (w : Word) : (s.respond k w).reads = s.reads := rfl
@[simp] theorem State.respond_nanDraws (k : RspKind) (w : Word) : (s.respond k w).nanDraws = s.nanDraws := rfl

/-! ### State.advance -/

@[simp] theorem State.advance_profile : (s.advance).profile = s.profile := rfl
@[simp] theorem State.advance_params : (s.advance).params = s.params := rfl
@[simp] theorem State.advance_gain : (s.advance).gain = s.gain := rfl
@[simp] theorem State.advance_rate : (s.advance).rate = s.rate := rfl
@[simp] theorem State.advance_devAddr : (s.advance).devAddr = s.devAddr := rfl
@[simp] theorem State.advance_opened : (s.advance).opened = s.opened := rfl
@[simp] theorem State.advance_phase : (s.advance).phase = .idle := rfl
@[simp] theorem State.advance_cmdIndex : (s.advance).cmdIndex = s.cmdIndex + 1 := rfl
@[simp] theorem State.advance_fault : (s.advance).fault = s.fault := rfl
@[simp] theorem State.advance_refused : (s.advance).refused = s.refused := rfl
@[simp] theorem State.advance_history : (s.advance).history = s.history := rfl
@[simp] theorem State.advance_responses : (s.advance).responses = s.responses := rfl
@[simp] theorem State.advance_port : (s.advance).port = s.port := rfl
@[simp] theorem State.advance_oracle : (s.advance).oracle = s.oracle := rfl
@[simp] theorem State.advance_resetReq : (s.advance).resetReq = s.resetReq := rfl
@[simp] theorem State.advance_reads : (s.advance).reads = s.reads := rfl
@[simp] theorem State.advance_nanDraws : (s.advance).nanDraws = s.nanDraws := rfl

/-! ### State.take -/

@[simp] theorem State.take_profile : (s.take).profile = s.profile := rfl
@[simp] theorem State.take_params : (s.take).params = s.params := rfl
@[simp] theorem State.take_gain : (s.take).gain = s.gain := rfl
@[simp] theorem State.take_rate : (s.take).rate = s.rate := rfl
@[simp] theorem State.take_devAddr : (s.take).devAddr = s.devAddr := rfl
@[simp] theorem State.take_opened : (s.take).opened = s.opened := rfl
@[simp] theorem State.take_phase : (s.take).phase = s.phase := rfl
@[simp] theorem State.take_cmdIndex : (s.take).cmdIndex = s.cmdIndex := rfl
@[simp] theorem State.take_fault : (s.take).fault = s.fault := rfl
@[simp] theorem State.take_refused : (s.take).refused = s.refused := rfl
@[simp] theorem State.take_history : (s.take).history = s.history := rfl
@[simp] theorem State.take_responses : (s.take).responses = s.responses := rfl
@[simp] theorem State.take_port : (s.take).port = s.port.tail := rfl
@[simp] theorem State.take_oracle : (s.take).oracle = s.oracle := rfl
@[simp] theorem State.take_resetReq : (s.take).resetReq = s.resetReq := rfl
@[simp] theorem State.take_reads : (s.take).reads = s.reads := rfl
@[simp] theorem State.take_nanDraws : (s.take).nanDraws = s.nanDraws := rfl

/-! ### State.raise -/

@[simp] theorem State.raise_profile (k : FaultKind) (w : Word) : (s.raise k w).profile = s.profile := by
  unfold State.raise; split <;> rfl
@[simp] theorem State.raise_params (k : FaultKind) (w : Word) : (s.raise k w).params = s.params := by
  unfold State.raise; split <;> rfl
@[simp] theorem State.raise_gain (k : FaultKind) (w : Word) : (s.raise k w).gain = s.gain := by
  unfold State.raise; split <;> rfl
@[simp] theorem State.raise_rate (k : FaultKind) (w : Word) : (s.raise k w).rate = s.rate := by
  unfold State.raise; split <;> rfl
@[simp] theorem State.raise_devAddr (k : FaultKind) (w : Word) : (s.raise k w).devAddr = s.devAddr := by
  unfold State.raise; split <;> rfl
@[simp] theorem State.raise_opened (k : FaultKind) (w : Word) : (s.raise k w).opened = s.opened := by
  unfold State.raise; split <;> rfl
@[simp] theorem State.raise_phase (k : FaultKind) (w : Word) : (s.raise k w).phase = s.phase := by
  unfold State.raise; split <;> rfl
@[simp] theorem State.raise_cmdIndex (k : FaultKind) (w : Word) : (s.raise k w).cmdIndex = s.cmdIndex := by
  unfold State.raise; split <;> rfl
@[simp] theorem State.raise_refused (k : FaultKind) (w : Word) : (s.raise k w).refused = s.refused := by
  unfold State.raise; split <;> rfl
@[simp] theorem State.raise_history (k : FaultKind) (w : Word) : (s.raise k w).history = s.history := by
  unfold State.raise; split <;> rfl
@[simp] theorem State.raise_responses (k : FaultKind) (w : Word) : (s.raise k w).responses = s.responses := by
  unfold State.raise; split <;> rfl
@[simp] theorem State.raise_port (k : FaultKind) (w : Word) : (s.raise k w).port = s.port := by
  unfold State.raise; split <;> rfl
@[simp] theorem State.raise_oracle (k : FaultKind) (w : Word) : (s.raise k w).oracle = s.oracle := by
  unfold State.raise; split <;> rfl
@[simp] theorem State.raise_resetReq (k : FaultKind) (w : Word) : (s.raise k w).resetReq = s.resetReq := by
  unfold State.raise; split <;> rfl
@[simp] theorem State.raise_reads (k : FaultKind) (w : Word) : (s.raise k w).reads = s.reads := by
  unfold State.raise; split <;> rfl
@[simp] theorem State.raise_nanDraws (k : FaultKind) (w : Word) : (s.raise k w).nanDraws = s.nanDraws := by
  unfold State.raise; split <;> rfl

/-! ### State.refuse -/

@[simp] theorem State.refuse_profile (r : RefusalReason) (w : Word) : (s.refuse r w).profile = s.profile := by
  unfold State.refuse; split <;> rfl
@[simp] theorem State.refuse_params (r : RefusalReason) (w : Word) : (s.refuse r w).params = s.params := by
  unfold State.refuse; split <;> rfl
@[simp] theorem State.refuse_gain (r : RefusalReason) (w : Word) : (s.refuse r w).gain = s.gain := by
  unfold State.refuse; split <;> rfl
@[simp] theorem State.refuse_rate (r : RefusalReason) (w : Word) : (s.refuse r w).rate = s.rate := by
  unfold State.refuse; split <;> rfl
@[simp] theorem State.refuse_devAddr (r : RefusalReason) (w : Word) : (s.refuse r w).devAddr = s.devAddr := by
  unfold State.refuse; split <;> rfl
@[simp] theorem State.refuse_opened (r : RefusalReason) (w : Word) : (s.refuse r w).opened = s.opened := by
  unfold State.refuse; split <;> rfl
@[simp] theorem State.refuse_phase (r : RefusalReason) (w : Word) : (s.refuse r w).phase = s.phase := by
  unfold State.refuse; split <;> rfl
@[simp] theorem State.refuse_cmdIndex (r : RefusalReason) (w : Word) : (s.refuse r w).cmdIndex = s.cmdIndex := by
  unfold State.refuse; split <;> rfl
@[simp] theorem State.refuse_fault (r : RefusalReason) (w : Word) : (s.refuse r w).fault = s.fault := by
  unfold State.refuse; split <;> rfl
@[simp] theorem State.refuse_history (r : RefusalReason) (w : Word) : (s.refuse r w).history = s.history := by
  unfold State.refuse; split <;> rfl
@[simp] theorem State.refuse_responses (r : RefusalReason) (w : Word) : (s.refuse r w).responses = s.responses := by
  unfold State.refuse; split <;> rfl
@[simp] theorem State.refuse_port (r : RefusalReason) (w : Word) : (s.refuse r w).port = s.port := by
  unfold State.refuse; split <;> rfl
@[simp] theorem State.refuse_oracle (r : RefusalReason) (w : Word) : (s.refuse r w).oracle = s.oracle := by
  unfold State.refuse; split <;> rfl
@[simp] theorem State.refuse_resetReq (r : RefusalReason) (w : Word) : (s.refuse r w).resetReq = s.resetReq := by
  unfold State.refuse; split <;> rfl
@[simp] theorem State.refuse_reads (r : RefusalReason) (w : Word) : (s.refuse r w).reads = s.reads := by
  unfold State.refuse; split <;> rfl
@[simp] theorem State.refuse_nanDraws (r : RefusalReason) (w : Word) : (s.refuse r w).nanDraws = s.nanDraws := by
  unfold State.refuse; split <;> rfl

/-! ### State.offer -/

@[simp] theorem State.offer_profile (c : Command) : (s.offer c).profile = s.profile := rfl
@[simp] theorem State.offer_params (c : Command) : (s.offer c).params = s.params := rfl
@[simp] theorem State.offer_gain (c : Command) : (s.offer c).gain = s.gain := rfl
@[simp] theorem State.offer_rate (c : Command) : (s.offer c).rate = s.rate := rfl
@[simp] theorem State.offer_devAddr (c : Command) : (s.offer c).devAddr = s.devAddr := rfl
@[simp] theorem State.offer_opened (c : Command) : (s.offer c).opened = s.opened := rfl
@[simp] theorem State.offer_phase (c : Command) : (s.offer c).phase = s.phase := rfl
@[simp] theorem State.offer_cmdIndex (c : Command) : (s.offer c).cmdIndex = s.cmdIndex := rfl
@[simp] theorem State.offer_fault (c : Command) : (s.offer c).fault = s.fault := rfl
@[simp] theorem State.offer_refused (c : Command) : (s.offer c).refused = s.refused := rfl
@[simp] theorem State.offer_history (c : Command) : (s.offer c).history = s.history := rfl
@[simp] theorem State.offer_responses (c : Command) : (s.offer c).responses = s.responses := rfl
@[simp] theorem State.offer_port (c : Command) : (s.offer c).port = s.port ++ [c] := rfl
@[simp] theorem State.offer_oracle (c : Command) : (s.offer c).oracle = s.oracle := rfl
@[simp] theorem State.offer_resetReq (c : Command) : (s.offer c).resetReq = s.resetReq := rfl
@[simp] theorem State.offer_reads (c : Command) : (s.offer c).reads = s.reads := rfl
@[simp] theorem State.offer_nanDraws (c : Command) : (s.offer c).nanDraws = s.nanDraws := rfl

/-! ### State.queueAnswer -/

@[simp] theorem State.queueAnswer_profile (w : Half) : (s.queueAnswer w).profile = s.profile := rfl
@[simp] theorem State.queueAnswer_params (w : Half) : (s.queueAnswer w).params = s.params := rfl
@[simp] theorem State.queueAnswer_gain (w : Half) : (s.queueAnswer w).gain = s.gain := rfl
@[simp] theorem State.queueAnswer_rate (w : Half) : (s.queueAnswer w).rate = s.rate := rfl
@[simp] theorem State.queueAnswer_devAddr (w : Half) : (s.queueAnswer w).devAddr = s.devAddr := rfl
@[simp] theorem State.queueAnswer_opened (w : Half) : (s.queueAnswer w).opened = s.opened := rfl
@[simp] theorem State.queueAnswer_phase (w : Half) : (s.queueAnswer w).phase = s.phase := rfl
@[simp] theorem State.queueAnswer_cmdIndex (w : Half) : (s.queueAnswer w).cmdIndex = s.cmdIndex := rfl
@[simp] theorem State.queueAnswer_fault (w : Half) : (s.queueAnswer w).fault = s.fault := rfl
@[simp] theorem State.queueAnswer_refused (w : Half) : (s.queueAnswer w).refused = s.refused := rfl
@[simp] theorem State.queueAnswer_history (w : Half) : (s.queueAnswer w).history = s.history := rfl
@[simp] theorem State.queueAnswer_responses (w : Half) : (s.queueAnswer w).responses = s.responses := rfl
@[simp] theorem State.queueAnswer_port (w : Half) : (s.queueAnswer w).port = s.port := rfl
@[simp] theorem State.queueAnswer_oracle (w : Half) : (s.queueAnswer w).oracle = s.oracle ++ [(hiByte w, loByte w)] := rfl
@[simp] theorem State.queueAnswer_resetReq (w : Half) : (s.queueAnswer w).resetReq = s.resetReq := rfl
@[simp] theorem State.queueAnswer_reads (w : Half) : (s.queueAnswer w).reads = s.reads := rfl
@[simp] theorem State.queueAnswer_nanDraws (w : Half) : (s.queueAnswer w).nanDraws = s.nanDraws := rfl

/-! ### State.requestReset -/

@[simp] theorem State.requestReset_profile : (s.requestReset).profile = s.profile := rfl
@[simp] theorem State.requestReset_params : (s.requestReset).params = s.params := rfl
@[simp] theorem State.requestReset_gain : (s.requestReset).gain = s.gain := rfl
@[simp] theorem State.requestReset_rate : (s.requestReset).rate = s.rate := rfl
@[simp] theorem State.requestReset_devAddr : (s.requestReset).devAddr = s.devAddr := rfl
@[simp] theorem State.requestReset_opened : (s.requestReset).opened = s.opened := rfl
@[simp] theorem State.requestReset_phase : (s.requestReset).phase = s.phase := rfl
@[simp] theorem State.requestReset_cmdIndex : (s.requestReset).cmdIndex = s.cmdIndex := rfl
@[simp] theorem State.requestReset_fault : (s.requestReset).fault = s.fault := rfl
@[simp] theorem State.requestReset_refused : (s.requestReset).refused = s.refused := rfl
@[simp] theorem State.requestReset_history : (s.requestReset).history = s.history := rfl
@[simp] theorem State.requestReset_responses : (s.requestReset).responses = s.responses := rfl
@[simp] theorem State.requestReset_port : (s.requestReset).port = s.port := rfl
@[simp] theorem State.requestReset_oracle : (s.requestReset).oracle = s.oracle := rfl
@[simp] theorem State.requestReset_resetReq : (s.requestReset).resetReq = true := rfl
@[simp] theorem State.requestReset_reads : (s.requestReset).reads = s.reads := rfl
@[simp] theorem State.requestReset_nanDraws : (s.requestReset).nanDraws = s.nanDraws := rfl

/-! ### State.placeCommand -/

@[simp] theorem State.placeCommand_profile (c : Command) : (s.placeCommand c).profile = s.profile := rfl
@[simp] theorem State.placeCommand_params (c : Command) : (s.placeCommand c).params = s.params := rfl
@[simp] theorem State.placeCommand_gain (c : Command) : (s.placeCommand c).gain = s.gain := rfl
@[simp] theorem State.placeCommand_rate (c : Command) : (s.placeCommand c).rate = s.rate := rfl
@[simp] theorem State.placeCommand_devAddr (c : Command) : (s.placeCommand c).devAddr = s.devAddr := rfl
@[simp] theorem State.placeCommand_opened (c : Command) : (s.placeCommand c).opened = s.opened := rfl
@[simp] theorem State.placeCommand_phase (c : Command) : (s.placeCommand c).phase = .idle := rfl
@[simp] theorem State.placeCommand_cmdIndex (c : Command) : (s.placeCommand c).cmdIndex = s.cmdIndex := rfl
@[simp] theorem State.placeCommand_fault (c : Command) : (s.placeCommand c).fault = none := rfl
@[simp] theorem State.placeCommand_refused (c : Command) : (s.placeCommand c).refused = none := rfl
@[simp] theorem State.placeCommand_history (c : Command) : (s.placeCommand c).history = s.history := rfl
@[simp] theorem State.placeCommand_responses (c : Command) : (s.placeCommand c).responses = s.responses := rfl
@[simp] theorem State.placeCommand_port (c : Command) : (s.placeCommand c).port = c :: s.port := rfl
@[simp] theorem State.placeCommand_oracle (c : Command) : (s.placeCommand c).oracle = s.oracle := rfl
@[simp] theorem State.placeCommand_resetReq (c : Command) : (s.placeCommand c).resetReq = false := rfl
@[simp] theorem State.placeCommand_reads (c : Command) : (s.placeCommand c).reads = s.reads := rfl
@[simp] theorem State.placeCommand_nanDraws (c : Command) : (s.placeCommand c).nanDraws = s.nanDraws := rfl

/-! ### State.applyReset -/

@[simp] theorem State.applyReset_profile : (s.applyReset).profile = s.profile := rfl
@[simp] theorem State.applyReset_params : (s.applyReset).params = s.params := rfl
@[simp] theorem State.applyReset_gain : (s.applyReset).gain = .fsr6144 := rfl
@[simp] theorem State.applyReset_rate : (s.applyReset).rate = s.profile.defaultRate := rfl
@[simp] theorem State.applyReset_devAddr : (s.applyReset).devAddr = 0#7 := rfl
@[simp] theorem State.applyReset_opened : (s.applyReset).opened = false := rfl
@[simp] theorem State.applyReset_phase : (s.applyReset).phase = .idle := rfl
@[simp] theorem State.applyReset_cmdIndex : (s.applyReset).cmdIndex = 0 := rfl
@[simp] theorem State.applyReset_fault : (s.applyReset).fault = none := rfl
@[simp] theorem State.applyReset_refused : (s.applyReset).refused = none := rfl
@[simp] theorem State.applyReset_history : (s.applyReset).history = s.history := rfl
@[simp] theorem State.applyReset_responses : (s.applyReset).responses = s.responses := rfl
@[simp] theorem State.applyReset_port : (s.applyReset).port = s.port := rfl
@[simp] theorem State.applyReset_oracle : (s.applyReset).oracle = s.oracle := rfl
@[simp] theorem State.applyReset_resetReq : (s.applyReset).resetReq = false := rfl
@[simp] theorem State.applyReset_reads : (s.applyReset).reads = s.reads := rfl
@[simp] theorem State.applyReset_nanDraws : (s.applyReset).nanDraws = s.nanDraws := rfl

/-! ### The marks themselves -/

@[simp] theorem State.raise_of_none (k : FaultKind) (w : Word) (h : s.fault = none) :
    s.raise k w = { s with fault := some (k, w) } := by
  simp [State.raise, h]

/-- The first fault mark is kept (10_state.md R28, 60_exceptions.md R181). -/
@[simp] theorem State.raise_of_marked (k k' : FaultKind) (w w' : Word) (h : s.fault = some (k', w')) :
    s.raise k w = s := by
  simp [State.raise, h]

@[simp] theorem State.refuse_of_none (r : RefusalReason) (w : Word) (h : s.refused = none) :
    s.refuse r w = { s with refused := some (r, w) } := by
  simp [State.refuse, h]

/-- The first refusal mark is kept (10_state.md R28). -/
@[simp] theorem State.refuse_of_marked (r r' : RefusalReason) (w w' : Word) (h : s.refused = some (r', w')) :
    s.refuse r w = s := by
  simp [State.refuse, h]

end Sys2Proof.Machine
end

