-- ==== Sys2Proof/Laws/Ops.lean ====
section
/-! SUPPORT. One lemma per shared operation that says everything it does, for the proofs to cite instead of unfolding it, and
the inversion of exec and step: what a next state can be. -/

namespace Sys2Proof.Machine

variable (s : State)

/-! ## The response port and the bus -/

theorem State.finish_eq (k : RspKind) (w : Word) :
    s.finish k w =
      { s with responses := s.responses ++ [{ kind := k, rsp := w }], cmdIndex := s.cmdIndex + 1, phase := .idle } := rfl

theorem State.regWrite_eq (p : Byte) (w : Half) :
    s.regWrite p w = { s with history := s.history ++ [.write s.devAddr [p, hiByte w, loByte w]] } := rfl

theorem State.regRead_word (p : Byte) : (s.regRead p).1 = s.nextAnswer.1 ++ s.nextAnswer.2 := rfl

theorem State.regRead_state (p : Byte) :
    (s.regRead p).2 =
      { s with
        history := s.history ++ [.write s.devAddr [p], .read s.devAddr s.nextAnswer.1 s.nextAnswer.2]
        oracle := s.oracle.tail
        reads := s.reads + 1 } := by
  simp [State.regRead, State.emit, State.dropAnswer]

theorem State.nextAnswer_cons (a : Byte × Byte) (l : List (Byte × Byte)) (h : s.oracle = a :: l) : s.nextAnswer = a := by
  simp [State.nextAnswer, h]

theorem State.nextAnswer_nil (h : s.oracle = []) : s.nextAnswer = Config.deviceAnswer s.reads := by
  simp [State.nextAnswer, h]

/-- The count can be read back from the response word. -/
theorem extract_countRsp (c : Half) : (countRsp c).extractLsb' 0 16 = c := by
  apply BitVec.eq_of_getLsbD_eq
  intro j hj
  have h : j < 32 := by omega
  rw [countRsp, BitVec.getLsbD_extractLsb', BitVec.getLsbD_signExtend]
  simp [hj, h]

/-! ## The opened check -/

theorem State.whenOpen_opened (i : Instr) (body : State → State) (h : s.opened = true) : s.whenOpen i body = body s := by
  simp [State.whenOpen, h]

theorem State.whenOpen_closed (i : Instr) (body : State → State) (h : s.opened = false) :
    s.whenOpen i body = s.raise .notOpen (encode i).cmd := by
  simp [State.whenOpen, h]

/-! ## The sequences of writes -/

theorem State.startSeq_eq (sel : Selector) (cont : Bool) :
    s.startSeq sel cont =
      { s with
        history := s.history ++
          [.write s.devAddr [ptrHi, hiByte s.params.rdyHi, loByte s.params.rdyHi],
           .write s.devAddr [ptrLo, hiByte s.params.rdyLo, loByte s.params.rdyLo],
           .write s.devAddr [ptrCfg, hiByte (cfgRead sel cont s.gain s.rate), loByte (cfgRead sel cont s.gain s.rate)]] } := by
  simp [State.startSeq, State.regWrite, State.emit]

theorem State.armSeq_eq (c : BitVec 2) (t : Half) :
    s.armSeq c t =
      { s with
        history := s.history ++
          [.write s.devAddr [ptrLo, hiByte cmpLoThresh, loByte cmpLoThresh],
           .write s.devAddr [ptrHi, hiByte (thrWord t s.shift), loByte (thrWord t s.shift)],
           .write s.devAddr [ptrCfg, hiByte (cfgCmp s.params.cmpSetOs c s.gain s.rate),
             loByte (cfgCmp s.params.cmpSetOs c s.gain s.rate)]] } := by
  simp [State.armSeq, State.regWrite, State.emit, State.shift]

theorem State.fetchCount_eq :
    s.fetchCount =
      { s with
        history := s.history ++ [.write s.devAddr [ptrConv], .read s.devAddr s.nextAnswer.1 s.nextAnswer.2]
        oracle := s.oracle.tail
        reads := s.reads + 1
        responses := s.responses ++
          [{ kind := .count, rsp := countRsp (decodeSample (s.nextAnswer.1 ++ s.nextAnswer.2) s.profile.resolution) }]
        cmdIndex := s.cmdIndex + 1
        phase := .idle } := by
  simp [State.fetchCount, State.regRead_state, State.regRead_word, State.finish_eq]

/-! ## Operand forms -/

theorem channelGuard_of_le {ch : Byte} (h : ch.toNat ≤ 3) : channelGuard ch = some (ch.setWidth 2) := by
  simp [channelGuard, h]

theorem channelGuard_of_gt {ch : Byte} (h : 3 < ch.toNat) : channelGuard ch = none := by
  simp [channelGuard]; omega

theorem gainOfCode_code (g : Gain) : gainOfCode (gainCode g) = some g := by cases g <;> rfl

theorem gainOfCode_eq_none {k : BitVec 3} : gainOfCode k = none ↔ 5 < k.toNat := by revert k; decide

theorem gainCode_of_gainOfCode {k : BitVec 3} {g : Gain} (h : gainOfCode k = some g) : gainCode g = k := by
  revert k g; decide

/-! ## Inversion -/

/-- Every instruction answers a next state: no meaning stops. -/
theorem exec_next (i : Instr) : ∃ t, exec i s = .next t := by
  cases i <;> simp only [exec] <;>
    first
      | exact ⟨_, rfl⟩
      | (simp only [execSetgain, execReadse, execStartse, execArmcmp]; split <;> exact ⟨_, rfl⟩)

/-- What a step that answers a next state did: one of the five actions that have one. -/
theorem step_next_cases {s t : State} (h : step s = .next t) :
    (s.nextAction = .reset ∧ t = s.applyReset) ∨
    (s.nextAction = .pollOnce ∧ t = s.pollStep) ∨
    (s.nextAction = .await ∧ t = s) ∨
    (∃ r w, s.nextAction = .reject r w ∧ t = s.take.refuse r w) ∨
    (∃ i, s.nextAction = .issue i ∧ exec i s.take = .next t) := by
  unfold step at h
  split at h <;> simp_all

/-- When the sequencer issues an instruction: the block is free and the first offered command decodes to it. -/
theorem nextAction_issue {s : State} {i : Instr} (h : s.nextAction = .issue i) :
    s.resetReq = false ∧ s.phase = .idle ∧ s.fault = none ∧ s.refused = none ∧
      ∃ c rest, s.port = c :: rest ∧ decode c = .ok i := by
  unfold State.nextAction portAction at h
  repeat' split at h
  all_goals simp_all

/-- When the sequencer rejects a command: the block is free and the decoder refuses the first offered command. -/
theorem nextAction_reject {s : State} {r : RefusalReason} {w : Word} (h : s.nextAction = .reject r w) :
    s.resetReq = false ∧ s.phase = .idle ∧ s.fault = none ∧ s.refused = none ∧
      ∃ c rest, s.port = c :: rest ∧ decode c = .error r ∧ c.cmd = w := by
  unfold State.nextAction portAction at h
  repeat' split at h
  all_goals simp_all

theorem nextAction_reset {s : State} : s.nextAction = .reset ↔ s.resetReq = true := by
  unfold State.nextAction portAction
  repeat' split
  all_goals simp_all

theorem nextAction_pollOnce {s : State} : s.nextAction = .pollOnce ↔ s.resetReq = false ∧ s.phase = .polling := by
  unfold State.nextAction portAction
  repeat' split
  all_goals simp_all

theorem nextAction_of_ready {s : State} (h : s.resetReq = false ∧ s.phase = .idle ∧ s.fault = none ∧ s.refused = none) :
    s.nextAction = portAction s.port := by
  simp [State.nextAction, h]

end Sys2Proof.Machine
end

