-- ==== Sys2Proof/Laws/PerInstr.lean ====
section
/-! SUPPORT. Statements made once per instruction. Family EncodeFormat: the words of an instruction carry its own opcode (and,
for opcode 0x6, the right bit 8) and no one in a must-be-zero bit of its format (30_encoding.md R61, R62). -/

namespace Sys2Proof

/-- The mnemonic of an instruction. -/
def Instr.op : Instr → Op
  | .begin _       => .begin
  | .setgain _     => .setgain
  | .setrate _     => .setrate
  | .readse _      => .readse
  | .readdiff _    => .readdiff
  | .startse _ _   => .startse
  | .startdiff _ _ => .startdiff
  | .poll          => .poll
  | .fetch         => .fetch
  | .tovolts _     => .tovolts
  | .tocount _     => .tocount
  | .armcmp _ _    => .armcmp

namespace Laws.EncodeFormat

/-- The encoder writes i in its own format. -/
def Statement (i : Instr) : Prop :=
  Op.ofCmd (encode i).cmd = some i.op ∧ (encode i).cmd &&& i.op.mustBeZero = 0#32

/-- A masked word is zero when the word is zero wherever the mask is one. -/
theorem and_eq_zero_of_bits {w m : Word} (h : ∀ j, j < 32 → m.getLsbD j = true → w.getLsbD j = false) :
    w &&& m = 0#32 := by
  apply BitVec.eq_of_getLsbD_eq
  intro j hj
  rw [BitVec.getLsbD_and, BitVec.getLsbD_zero, Bool.and_eq_false_iff]
  cases hm : m.getLsbD j
  · exact .inr rfl
  · exact .inl (h j hj hm)

theorem begin (a : BitVec 7) : Statement (.begin a) := by
  revert a; unfold Statement; decide

theorem setgain (k : BitVec 3) : Statement (.setgain k) := by
  revert k; unfold Statement; decide

theorem setrate (k : BitVec 3) : Statement (.setrate k) := by
  revert k; unfold Statement; decide

theorem readse (ch : Byte) : Statement (.readse ch) := by
  revert ch; unfold Statement; decide

theorem readdiff (p : BitVec 2) : Statement (.readdiff p) := by
  revert p; unfold Statement; decide

theorem startse (ch : Byte) (cont : Bool) : Statement (.startse ch cont) := by
  revert ch cont; unfold Statement; decide

theorem startdiff (p : BitVec 2) (cont : Bool) : Statement (.startdiff p cont) := by
  revert p cont; unfold Statement; decide

theorem poll : Statement .poll := by unfold Statement; decide

theorem fetch : Statement .fetch := by unfold Statement; decide

theorem tovolts (n : Half) : Statement (.tovolts n) := by
  constructor
  · have h : (encode (.tovolts n)).cmd.extractLsb' 28 4 = 0x9#4 := by
      apply BitVec.eq_of_getLsbD_eq
      intro j hj
      simp only [encode, BitVec.getLsbD_extractLsb', BitVec.getLsbD_append]
      interval_cases j <;> rfl
    simp [Op.ofCmd, h, Instr.op]
  · apply and_eq_zero_of_bits
    intro j hj hm
    simp only [encode, Instr.op, Op.mustBeZero, BitVec.getLsbD_append] at hm ⊢
    interval_cases j <;> first | rfl | exact absurd hm (by decide)

theorem tocount (v : Word) : Statement (.tocount v) := by
  constructor
  · change Op.ofCmd (0xA#4 ++ 0#28 : Word) = some .tocount
    decide
  · change (0xA#4 ++ 0#28 : Word) &&& 0x0FFFFFFF#32 = 0#32
    decide

theorem armcmp (ch : Byte) (t : Half) : Statement (.armcmp ch t) := by
  constructor
  · have h : (encode (.armcmp ch t)).cmd.extractLsb' 28 4 = 0xB#4 := by
      apply BitVec.eq_of_getLsbD_eq
      intro j hj
      simp only [encode, BitVec.getLsbD_extractLsb', BitVec.getLsbD_append]
      interval_cases j <;> rfl
    simp [Op.ofCmd, h, Instr.op]
  · apply and_eq_zero_of_bits
    intro j hj hm
    simp only [encode, Instr.op, Op.mustBeZero, BitVec.getLsbD_append] at hm ⊢
    interval_cases j <;> first | rfl | exact absurd hm (by decide)

end Laws.EncodeFormat

end Sys2Proof
end

