-- ==== Sys2Proof/Laws/Run.lean ====
section
/-! SUPPORT. Runs of several steps as the host runs them (Host.Core.run), one step at a time. -/

namespace Sys2Proof.Machine

/-- A run of no steps. -/
theorem run_zero (s : State) : Host.Core.run core 0 s = .next s := rfl

/-- A run whose first step answers a next state goes on from there. -/
theorem run_succ_of_next {s t : State} (k : Nat) (h : step s = .next t) :
    Host.Core.run core (k + 1) s = Host.Core.run core k t := by
  have e := Host.Core.run.eq_2 core s k
  rw [show core.step s = .next t from h] at e
  exact e

/-- A run whose first step stops with a fault stops with it. -/
theorem run_succ_of_fault {s : State} {r : Fault} (k : Nat) (h : step s = .fault r) :
    Host.Core.run core (k + 1) s = .fault r := by
  have e := Host.Core.run.eq_2 core s k
  rw [show core.step s = .fault r from h] at e
  exact e

/-- A run whose first step is refused is refused. -/
theorem run_succ_of_refused {s : State} {r : Refusal} (k : Nat) (h : step s = .refused r) :
    Host.Core.run core (k + 1) s = .refused r := by
  have e := Host.Core.run.eq_2 core s k
  rw [show core.step s = .refused r from h] at e
  exact e

/-- A run of k steps to t, then one step more. -/
theorem run_add_one (k : Nat) (s t : State) (h : Host.Core.run core k s = .next t) :
    Host.Core.run core (k + 1) s = step t := by
  induction k generalizing s with
  | zero =>
    obtain rfl : s = t := Host.Outcome.next.inj ((run_zero s).symm.trans h)
    cases hs : step s with
    | next u => exact run_succ_of_next 0 hs
    | fault r => exact run_succ_of_fault 0 hs
    | refused r => exact run_succ_of_refused 0 hs
  | succ k ih =>
    cases hs : step s with
    | next u =>
      rw [run_succ_of_next (k + 1) hs]
      exact ih u ((run_succ_of_next k hs).symm.trans h)
    | fault r => exact absurd ((run_succ_of_fault k hs).symm.trans h) (by simp)
    | refused r => exact absurd ((run_succ_of_refused k hs).symm.trans h) (by simp)

end Sys2Proof.Machine
end

