-- ==== Sys2Proof/Laws/Safety.lean ====
section
/-! SUPPORT. The predicates of Safety.lean over histories that grow at their end. -/

namespace Sys2Proof.Machine

/-- Whole register accesses after whole register accesses are whole register accesses. -/
theorem historyLegal_append (h t : List BusEvent) (hh : historyLegal h = true) (ht : historyLegal t = true) :
    historyLegal (h ++ t) = true := by
  induction h using historyLegal.induct with
  | case1 => exact ht
  | case2 a l ih => simpa [historyLegal] using ih (by simpa [historyLegal] using hh)
  | case3 a p x y l ih =>
    simp only [historyLegal, List.cons_append, Bool.and_eq_true] at hh ⊢
    exact ⟨hh.1, ih hh.2⟩
  | case4 a p a' x y l ih =>
    simp only [historyLegal, List.cons_append, Bool.and_eq_true] at hh ⊢
    exact ⟨hh.1, ih hh.2⟩
  | case5 e l h1 h2 h3 => simp_all [historyLegal]

theorem readCount_append (h t : List BusEvent) : readCount (h ++ t) = readCount h + readCount t := by
  induction h with
  | nil => simp [readCount]
  | cons e h ih => cases e <;> (simp only [List.cons_append, readCount, ih]; try omega)

end Sys2Proof.Machine
end

