-- ==== Sys2Proof/Tests/Slice0.lean ====
section
/-! SUPPORT. Tests on fixed values, each expected result taken from the spec's vectors (95_test_vectors.md, cited V<n>, P<n> or
by section) or from a rule's own example; and, for every statement with hypotheses, a state and operands that meet them all. -/

namespace Sys2Proof.Tests

open Sys2Proof Sys2Proof.Machine

/-! ## Small states -/

/-- The state a next answer holds. -/
def nextOf (r : Result) : Option State :=
  match r with
  | .next t    => some t
  | .fault _   => none
  | .refused _ => none

/-- 16-bit profile, after BEGIN 0x48. -/
def open16 : State := { State.reset with opened := true, devAddr := 0x48#7 }

/-- 12-bit profile, after BEGIN 0x48. -/
def open12 : State := { State.resetWith Profile.default12 Params.default with opened := true, devAddr := 0x48#7 }

/-- One offered command. -/
def offering (s : State) (cmd opnd : Word) : State := { s with port := [{ cmd := cmd, opnd := opnd }] }

/-- The events of a next answer. -/
def eventsOf (r : Result) : Option (List BusEvent) := (nextOf r).map State.history

/-- The responses of a next answer, kind and word. -/
def rspOf (r : Result) : Option (List Response) := (nextOf r).map State.responses

/-- W[b0,b1,b2] at 0x48. -/
def w3 (b0 b1 b2 : Byte) : BusEvent := .write 0x48#7 [b0, b1, b2]

/-! ## WellFormed: the one check refuses its ill-formed term -/

theorem test_wellFormed_refuses_gain_6 : ¬ (Instr.setgain 6#3).WellFormed := by decide

theorem test_wellFormed_accepts_gain_5 : (Instr.setgain 5#3).WellFormed := by decide

/-! ## Decode: words of 2.1, and one word per command written out from the format table of R62 -/

theorem test_decode_begin : decode { cmd := 0b00010000000000000000000001001000#32, opnd := 0 } = .ok (.begin 0x48#7) := by decide
theorem test_decode_setgain : decode { cmd := 0b00100000000000000000000000000101#32, opnd := 0 } = .ok (.setgain 5#3) := by decide
theorem test_decode_setrate : decode { cmd := 0b00110000000000000000000000000111#32, opnd := 0 } = .ok (.setrate 7#3) := by decide
theorem test_decode_readse : decode { cmd := 0b01000000000000000000000011111111#32, opnd := 0 } = .ok (.readse 255#8) := by decide
theorem test_decode_readdiff : decode { cmd := 0b01010000000000000000000000000011#32, opnd := 0 } = .ok (.readdiff 3#2) := by decide
theorem test_decode_startse : decode { cmd := 0b01100000000000000000001000000010#32, opnd := 0 } = .ok (.startse 2#8 true) := by decide
theorem test_decode_startdiff : decode { cmd := 0b01100000000000000000000100000001#32, opnd := 0 } = .ok (.startdiff 1#2 false) := by decide
theorem test_decode_poll : decode { cmd := 0b01110000000000000000000000000000#32, opnd := 0 } = .ok .poll := by decide
theorem test_decode_fetch : decode { cmd := 0b10000000000000000000000000000000#32, opnd := 0 } = .ok .fetch := by decide
theorem test_decode_tovolts : decode { cmd := 0b10010000000000001000000000000000#32, opnd := 0 } = .ok (.tovolts 0x8000#16) := by decide
theorem test_decode_tocount : decode { cmd := 0b10100000000000000000000000000000#32, opnd := 0x40C49BA6 } = .ok (.tocount 0x40C49BA6#32) := by decide
theorem test_decode_armcmp : decode { cmd := 0b10110000000000011111010001001000#32, opnd := 0 } = .ok (.armcmp 1#8 0xF448#16) := by decide

/-- 2.1: the refused words, each with its reason, in the order of the checks. -/
theorem test_decode_refusals :
    decode { cmd := 0x10000080, opnd := 0 } = .error .reservedBits ∧
    decode { cmd := 0x20000006, opnd := 0 } = .error .reservedGain ∧
    decode { cmd := 0x2000000E, opnd := 0 } = .error .reservedBits ∧
    decode { cmd := 0x30000010, opnd := 0 } = .error .reservedBits ∧
    decode { cmd := 0x40000100, opnd := 0 } = .error .reservedBits ∧
    decode { cmd := 0x50000004, opnd := 0 } = .error .reservedBits ∧
    decode { cmd := 0x60000105, opnd := 0 } = .error .reservedBits ∧
    decode { cmd := 0x60000400, opnd := 0 } = .error .reservedBits ∧
    decode { cmd := 0x70000001, opnd := 0 } = .error .reservedBits ∧
    decode { cmd := 0x9001FFFF, opnd := 0 } = .error .reservedBits ∧
    decode { cmd := 0xB1000000, opnd := 0 } = .error .reservedBits ∧
    decode { cmd := 0x00000000, opnd := 0 } = .error .reservedOpcode ∧
    decode { cmd := 0xC0000001, opnd := 0 } = .error .reservedOpcode ∧
    decode { cmd := 0xFFFFFFFF, opnd := 0 } = .error .reservedOpcode := by decide

/-! ## The commands, one step each -/

/-- 2.2: BEGIN 0x48 from reset. -/
theorem test_begin : (nextOf (exec (.begin 0x48#7) State.reset)).map (fun t => (t.opened, t.devAddr, t.history)) =
    some (true, 0x48#7, [.openDev 0x48#7]) := by decide

/-- 2.2: SETGAIN 5 needs no BEGIN. -/
theorem test_setgain : (nextOf (exec (.setgain 5#3) State.reset)).map State.gain = some .fsr0256 := by decide

/-- 2.2: SETGAIN 7 is refused; gain 0, cmdIndex 0. -/
theorem test_setgain_7 : (nextOf (step (offering State.reset 0x20000007 0))).map (fun t => (t.refused, t.gain, t.cmdIndex)) =
    some (some (.reservedGain, 0x20000007#32), .fsr6144, 0) := by decide

/-- 2.2: SETRATE 0. -/
theorem test_setrate : (nextOf (exec (.setrate 0#3) State.reset)).map State.rate = some 0#3 := by decide

/-- R130's example: 16-bit, gain 1, rate 4, READSE 2 writes CFG 0xE380. -/
theorem test_readse : eventsOf (exec (.readse 2#8) { open16 with gain := .fsr4096 }) =
    some [w3 0x03 0xFF 0xFF, w3 0x02 0x00 0x00, w3 0x01 0xE3 0x80] := by decide

/-- V4: READSE 255 gives Count 0 and no event, before any BEGIN. -/
theorem test_readse_guard : (nextOf (exec (.readse 255#8) State.reset)).map (fun t => (t.history, t.responses, t.fault)) =
    some ([], [{ kind := .count, rsp := 0#32 }], none) := by decide

/-- R131's example: READDIFF 0 writes CFG 0x8180. -/
theorem test_readdiff : eventsOf (exec (.readdiff 0#2) open16) =
    some [w3 0x03 0xFF 0xFF, w3 0x02 0x00 0x00, w3 0x01 0x81 0x80] := by decide

/-- 2.9: READDIFF 1 before BEGIN. -/
theorem test_readdiff_closed : (nextOf (step (offering State.reset 0x50000001 0))).map (fun t => (t.fault, t.history, t.cmdIndex)) =
    some (some (.notOpen, 0x50000001#32), [], 0) := by decide

/-- V1: STARTSE 0, single, on the 12-bit profile. -/
theorem test_startse : eventsOf (exec (.startse 0#8 false) open12) =
    some [w3 0x03 0xFF 0xFF, w3 0x02 0x00 0x00, w3 0x01 0xC1 0x80] := by decide

/-- 2.5: STARTSE 3, cont, gain 2, rate 0. -/
theorem test_startse_cont : eventsOf (exec (.startse 3#8 true) { open16 with gain := .fsr2048, rate := 0#3 }) =
    some [w3 0x03 0xFF 0xFF, w3 0x02 0x00 0x00, w3 0x01 0xF4 0x00] := by decide

/-- R127's example: STARTDIFF 3, cont, writes 0xB080. -/
theorem test_startdiff : eventsOf (exec (.startdiff 3#2 true) open12) =
    some [w3 0x03 0xFF 0xFF, w3 0x02 0x00 0x00, w3 0x01 0xB0 0x80] := by decide

/-- 2.5: POLL with the answer 0x8583. -/
theorem test_poll_ready : rspOf (exec .poll { open16 with oracle := [(0x85, 0x83)] }) = some [{ kind := .bool, rsp := 1#32 }] := by
  decide

/-- 2.5: POLL with the answer 0x7FFF: bits 14:0 are ignored. -/
theorem test_poll_busy : rspOf (exec .poll { open16 with oracle := [(0x7F, 0xFF)] }) = some [{ kind := .bool, rsp := 0#32 }] := by
  decide

/-- V2: FETCH of 0xFFF0 on the 12-bit profile is -1. -/
theorem test_fetch_12 : (nextOf (exec .fetch { open12 with oracle := [(0xFF, 0xF0)] })).map (fun t => (t.history, t.responses)) =
    some ([.write 0x48#7 [0x00], .read 0x48#7 0xFF 0xF0], [{ kind := .count, rsp := 0xFFFFFFFF#32 }]) := by decide

/-- 2.5: FETCH of 0x8000 on the 16-bit profile is -32768. -/
theorem test_fetch_16 : rspOf (exec .fetch { open16 with oracle := [(0x80, 0x00)] }) =
    some [{ kind := .count, rsp := 0xFFFF8000#32 }] := by decide

/-- P1: TOVOLTS 4660 at gain 1, no BEGIN needed. -/
theorem test_tovolts : rspOf (exec (.tovolts 4660#16) { State.reset with gain := .fsr4096 }) =
    some [{ kind := .volts, rsp := 0x3F151EB9#32 }] := by decide +kernel

/-- 2.7: 12-bit, gain 0, TOVOLTS 32767 is not clamped. -/
theorem test_tovolts_12 : rspOf (exec (.tovolts 32767#16) open12) = some [{ kind := .volts, rsp := 0x42C49A1D#32 }] := by
  decide +kernel

/-- V3: TOCOUNT of the range boundary saturates. -/
theorem test_tocount : rspOf (exec (.tocount 0x40C49BA6#32) State.reset) = some [{ kind := .count, rsp := 0x00007FFF#32 }] := by
  decide +kernel

/-- 2.7: 12-bit, TOCOUNT of -0.003 is -1. -/
theorem test_tocount_12 : rspOf (exec (.tocount 0xBB449BA6#32) open12) = some [{ kind := .count, rsp := 0xFFFFFFFF#32 }] := by
  decide +kernel

/-- V5: ARMCMP 0, 2048 on the 12-bit profile. -/
theorem test_armcmp : eventsOf (exec (.armcmp 0#8 2048#16) open12) =
    some [w3 0x02 0x80 0x00, w3 0x03 0x7F 0xF0, w3 0x01 0x40 0x84] := by decide

/-- 2.8: ARMCMP 2, 1000, 16-bit, gain 1. -/
theorem test_armcmp_16 : eventsOf (exec (.armcmp 2#8 1000#16) { open16 with gain := .fsr4096 }) =
    some [w3 0x02 0x80 0x00, w3 0x03 0x03 0xE8, w3 0x01 0x62 0x84] := by decide

/-- 2.6: the last poll step of READSE 1. -/
theorem test_pollStep : (nextOf (step { open12 with phase := .polling, oracle := [(0xD1, 0x80), (0x7F, 0xF0)] })).map
    (fun t => (t.phase, t.cmdIndex, t.responses)) = some (.idle, 1, [{ kind := .count, rsp := 0x000007FF#32 }]) := by decide

/-! ## Words and numbers -/

/-- 2.4 and V9. -/
theorem test_decodeSample : decodeSample 0x8000#16 .bits12 = bits16 (-2048) ∧ decodeSample 0x7FF0#16 .bits12 = 2047#16 ∧
    decodeSample 0x800F#16 .bits12 = bits16 (-2048) ∧ decodeSample 0x1234#16 .bits12 = 291#16 ∧
    decodeSample 0x8001#16 .bits16 = bits16 (-32767) := by decide

/-- 2.3. -/
theorem test_cfgRead : cfgRead (.single 3#2) false .fsr0256 7#3 = 0xFBE0#16 ∧ cfgRead (.diff 1#2) true .fsr1024 4#3 = 0x9680#16 ∧
    cfgRead (.diff 2#2) false .fsr0512 4#3 = 0xA980#16 := by decide

/-- 2.8. -/
theorem test_cfgCmp : cfgCmp false 3#2 .fsr0256 7#3 = 0x7AE4#16 ∧ cfgCmp true 3#2 .fsr2048 0#3 = 0xF404#16 := by decide

/-- 2.8. -/
theorem test_thrWord : thrWord (bits16 (-3000)) 4 = 0x8000#16 ∧ thrWord (bits16 (-1)) 4 = 0xFFF0#16 ∧
    thrWord 100#16 4 = 0x0640#16 ∧ thrWord (bits16 (-32768)) 0 = 0x8000#16 ∧ thrWord 32767#16 0 = 0x7FFF#16 := by decide

/-- R152: the largest decoded count of each resolution at gain 0. -/
theorem test_toVolts_largest : toVolts 32767#16 .fsr6144 0 = 0x40C49A1D#32 ∧ toVolts 2047#16 .fsr6144 4 = 0x40C48313#32 := by
  decide +kernel

/-- 2.7, TOVOLTS. -/
theorem test_toVolts : toVolts (bits16 (-1)) .fsr6144 0 = 0xB9449BA6#32 ∧ toVolts 1000#16 .fsr2048 0 = 0x3D800000#32 ∧
    toVolts (bits16 (-1)) .fsr0256 4 = 0xB903126F#32 ∧ toVolts 100#16 .fsr1024 4 = 0x3D4CCCCD#32 := by decide +kernel

/-- 2.7, TOCOUNT: both roundings, a tie, a subnormal, an infinity. -/
theorem test_toCount : toCount .nearestEven 0 0x3F800000#32 .fsr4096 0 = 8000#16 ∧
    toCount .towardZero 0 0x3F800000#32 .fsr4096 0 = 7999#16 ∧ toCount .nearestEven 0 0x38C49BA6#32 .fsr6144 0 = 0#16 ∧
    toCount .towardZero 0 0xBA1374BC#32 .fsr6144 0 = bits16 (-2) ∧ toCount .nearestEven 0 0x00000001#32 .fsr6144 0 = 0#16 ∧
    toCount .nearestEven 0 0xFF800000#32 .fsr6144 4 = bits16 (-32768) := by decide +kernel

/-- P1 and R65: lines of assembly with comments, symbols, negative numbers, raw bits and .word. -/
theorem test_asm :
    asmLine "BEGIN   0x48          ; 0x10000048".toList = .stmt (.command (.begin 0x48#7)) ∧
    asmLine "SETGAIN FSR4096".toList = .stmt (.command (.setgain 1#3)) ∧
    asmLine "STARTDIFF P23, cont".toList = .stmt (.command (.startdiff 3#2 true)) ∧
    asmLine "ARMCMP  1, -3000".toList = .stmt (.command (.armcmp 1#8 0xF448#16)) ∧
    asmLine ".word   0xC0000001".toList = .stmt (.word 0xC0000001#32) ∧
    asmLine "  ; nothing".toList = .blank ∧ asmLine "SETGAIN 6".toList = .error := by decide

/-- V3: TOCOUNT 6.144 assembles its decimal literal with rne32. -/
theorem test_asm_volts : asmLine "TOCOUNT 6.144".toList = .stmt (.command (.tocount 0x40C49BA6#32)) := by decide +kernel

/-! ## Witnesses: a state and operands that meet all the hypotheses of a statement -/

/-- 16-bit, free, open, READSE 1 offered, two busy answers, then ready and a sample (2.6). -/
def reading : State :=
  { offering open16 0x40000001 0 with oracle := [(0x51, 0x80), (0x51, 0x80), (0xD1, 0x80), (0x7F, 0xF0)] }

theorem witness_DecodeOfEncodeIsIdentity : (Instr.setgain 5#3).WellFormed ∧ (Instr.tocount 0xFFFFFFFF#32).WellFormed := by decide

theorem witness_EncodeOfDecodeIsTheWord : decode { cmd := 0xA0000000, opnd := 7 } = .ok (.tocount 7#32) ∧
    decode { cmd := 0x60000303, opnd := 7 } = .ok (.startdiff 3#2 true) := by decide

theorem witness_DecodedInstructionIsWellFormed : decode { cmd := 0x20000005, opnd := 0 } = .ok (.setgain 5#3) := by decide

theorem witness_OperandWordIgnoredButForTocount : (0x90001234#32 : Word).extractLsb' 28 4 ≠ 0xA#4 := by decide

theorem witness_AssembledCommandIsAccepted : asmLine "SETGAIN FSR0256".toList = .stmt (.command (.setgain 5#3)) := by decide

theorem witness_StepRunsDecodedCommand : (offering State.reset 0x70000000 0).Ready ∧
    (offering State.reset 0x70000000 0).port = [{ cmd := 0x70000000, opnd := 0 }] ∧
    decode { cmd := 0x70000000, opnd := 0 } = .ok .poll ∧ State.reset.Ready ∧ State.reset.port = [] := by decide

theorem witness_RefusedCommandSetsOnlyItsMark : (offering State.reset 0xC0000001 0).Ready ∧
    decode { cmd := 0xC0000001, opnd := 0 } = .error .reservedOpcode := by decide

/-- One state for each clause: a fault mark, a refusal mark, a reset request in a stopped block. -/
theorem witness_StoppedBlockTakesNoCommand :
    (({ State.reset with fault := some (.notOpen, 0x70000000#32) } : State).phase = .idle ∧
      ({ State.reset with fault := some (.notOpen, 0x70000000#32) } : State).resetReq = false) ∧
    (({ State.reset with refused := some (.reservedBits, 0x70000001#32) } : State).phase = .idle ∧
      ({ State.reset with refused := some (.reservedBits, 0x70000001#32) } : State).fault = none) ∧
    ({ State.reset with refused := some (.reservedBits, 0x70000001#32), resetReq := true } : State).resetReq = true := by decide

theorem witness_ResetRestoresStatedValues : ({ reading with phase := .polling, resetReq := true } : State).resetReq = true := by
  decide

/-- P4, run A: the closed block takes READSE 0 and is marked. -/
theorem witness_StepKeepsInvariant : (offering State.reset 0x40000000 0).Inv ∧ ∃ t, step (offering State.reset 0x40000000 0) = .next t ∧
    t.fault = some (.notOpen, 0x40000000#32) :=
  ⟨⟨by decide, by decide, by decide, by decide, by decide, by decide, by decide, by decide, by decide⟩, _, rfl, by decide⟩

theorem witness_ProfileAndParamsNeverChange : ∃ t, step reading = .next t := ⟨_, rfl⟩

theorem witness_OnlySetgainWritesGain : (offering State.reset 0x20000005 0).resetReq = false ∧
    ∃ t, step (offering State.reset 0x20000005 0) = .next t ∧ t.gain ≠ (offering State.reset 0x20000005 0).gain :=
  ⟨rfl, _, rfl, by decide⟩

theorem witness_OnlySetrateWritesRate : (offering State.reset 0x30000000 0).resetReq = false ∧
    ∃ t, step (offering State.reset 0x30000000 0) = .next t ∧ t.rate ≠ (offering State.reset 0x30000000 0).rate :=
  ⟨rfl, _, rfl, by decide⟩

theorem witness_OnlyBeginWritesAddress : (offering State.reset 0x10000048 0).resetReq = false ∧
    ∃ t, step (offering State.reset 0x10000048 0) = .next t ∧ t.devAddr ≠ (offering State.reset 0x10000048 0).devAddr :=
  ⟨rfl, _, rfl, by decide⟩

theorem witness_FinishedCommandRespondsOnce : reading.resetReq = false ∧ ∃ t, step reading = .next t := ⟨rfl, _, rfl⟩

/-- Both clauses: a busy answer, and a ready one. -/
theorem witness_PollStepReadsStatus :
    (({ reading with phase := .polling } : State).resetReq = false ∧ ({ reading with phase := .polling } : State).phase = .polling) ∧
    ((0x51#8 : Byte) ++ (0x80#8 : Byte)).getLsbD 15 = false ∧ ((0xD1#8 : Byte) ++ (0x80#8 : Byte)).getLsbD 15 = true := by decide

theorem witness_PollLoopHasNoBound :
    (∀ a ∈ [((0x51, 0x80) : Byte × Byte), (0x51, 0x80)], (a.1 ++ a.2).getLsbD 15 = false) ∧
    ({ reading with phase := .polling } : State).oracle = [(0x51, 0x80), (0x51, 0x80)] ++ [(0xD1, 0x80), (0x7F, 0xF0)] := by
  refine ⟨?_, by decide⟩
  simp only [List.forall_mem_cons]; exact ⟨by decide, by decide, by simp⟩

theorem witness_BlockingReadReturnsSample : reading.Ready ∧ reading.opened = true ∧
    reading.port = [{ cmd := 0x40000001, opnd := 0 }] ∧ decode { cmd := 0x40000001, opnd := 0 } = .ok (.readse 1#8) ∧
    blockingSelector (.readse 1#8) = some (.single 1#2) ∧
    (∀ a ∈ [((0x51, 0x80) : Byte × Byte), (0x51, 0x80)], (a.1 ++ a.2).getLsbD 15 = false) ∧
    ((0xD1#8 : Byte) ++ (0x80#8 : Byte)).getLsbD 15 = true ∧
    reading.oracle = [(0x51, 0x80), (0x51, 0x80)] ++ (0xD1, 0x80) :: (0x7F, 0xF0) :: [] := by
  refine ⟨by decide, by decide, by decide, by decide, by decide, ?_, by decide, by decide⟩
  simp only [List.forall_mem_cons]; exact ⟨by decide, by decide, by simp⟩

/-- The clauses at the boundary codes 5 and 6. -/
theorem witness_SetgainSelectsRange : gainCode .fsr0256 = 5#3 ∧ (5#3 : BitVec 3).toNat ≤ 5 ∧ 5 < (6#3 : BitVec 3).toNat ∧
    State.reset.refused = none := by decide

/-- The boundary channel 3 on an open block: the hypotheses of StartsSingleEndedReading, ReadseWritesSetupAndPolls and
ArmcmpWritesThresholds, and of the statements on pairs, POLL and FETCH. -/
theorem witness_open_and_channel_3 : (3#8 : Byte).toNat ≤ 3 ∧ open16.opened = true := by decide

/-- The boundary channel 4. -/
theorem witness_ChannelGuardIsSilent : 3 < (4#8 : Byte).toNat := by decide

/-- Both clauses: a command that needs the device on a closed block; one that does not; one on an open block. -/
theorem witness_NotOpenStopsBusCommands : (Instr.readse 3#8).needsOpen = true ∧ State.reset.opened = false ∧
    State.reset.fault = none ∧ (Instr.readse 4#8).needsOpen = false ∧ open16.opened = true := by decide

theorem witness_FirstFaultMarkIsKept : State.reset.fault = none ∧ State.reset.refused = none ∧
    ({ State.reset with fault := some (.notOpen, 1#32) } : State).fault = some (.notOpen, 1#32) ∧
    ({ State.reset with refused := some (.reservedBits, 1#32) } : State).refused = some (.reservedBits, 1#32) := by decide

theorem witness_StopHasNoPartialEffect : ∃ t, step (offering State.reset 0x70000000 0) = .next t ∧
    t.fault ≠ (offering State.reset 0x70000000 0).fault := ⟨_, rfl, by decide⟩

/-- The reserved opcodes at both ends, with low bits, and their neighbours 1 and 11 which are not; a must-be-zero bit in each of
the four commands; a free closed block. -/
theorem witness_ChecksApplyInOrder : (offering State.reset 0x00000001 0).Ready ∧ (offering State.reset 0x00000001 0).opened = false ∧
    ((0x00000001#32 : Word).extractLsb' 28 4).toNat = 0 ∧ 12 ≤ ((0xC0000001#32 : Word).extractLsb' 28 4).toNat ∧
    ¬ ((0x1FFFFFFF#32 : Word).extractLsb' 28 4).toNat = 0 ∧ ¬ 12 ≤ ((0xBFFFFFFF#32 : Word).extractLsb' 28 4).toNat ∧
    ((0x2000000E#32 : Word).extractLsb' 28 4 = 2#4 ∧ (0x2000000E#32 : Word).extractLsb' 3 25 ≠ 0 ∧
      5 < ((0x2000000E#32 : Word).extractLsb' 0 3).toNat) ∧
    ((0x40000109#32 : Word).extractLsb' 28 4 = 4#4 ∧ (0x40000109#32 : Word).extractLsb' 8 20 ≠ 0) ∧
    ((0x60000404#32 : Word).extractLsb' 28 4 = 6#4 ∧ (0x60000404#32 : Word).extractLsb' 10 18 ≠ 0) ∧
    ((0xB1040000#32 : Word).extractLsb' 28 4 = 11#4 ∧ (0xB1040000#32 : Word).extractLsb' 24 4 ≠ 0) := by decide

/-- The guard's boundary in each command with a channel: 4 is guarded, 3 is not. -/
theorem witness_ChecksApplyInOrder_channels_3_and_4 :
    ((0x40000004#32 : Word).extractLsb' 8 24 = 0x400000#24 ∧ 3 < ((0x40000004#32 : Word).extractLsb' 0 8).toNat) ∧
    ((0x60000004#32 : Word).extractLsb' 10 22 = 0x180000#22 ∧ (0x60000004#32 : Word).getLsbD 8 = false ∧
      3 < ((0x60000004#32 : Word).extractLsb' 0 8).toNat) ∧
    ((0xB0048000#32 : Word).extractLsb' 24 8 = 0xB0#8 ∧ 3 < ((0xB0048000#32 : Word).extractLsb' 16 8).toNat) ∧
    ((0x40000003#32 : Word).extractLsb' 8 24 = 0x400000#24 ∧ ((0x40000003#32 : Word).extractLsb' 0 8).toNat ≤ 3) ∧
    ((0x60000203#32 : Word).extractLsb' 10 22 = 0x180000#22 ∧ (0x60000203#32 : Word).getLsbD 8 = false ∧
      ((0x60000203#32 : Word).extractLsb' 0 8).toNat ≤ 3) ∧
    ((0xB0038000#32 : Word).extractLsb' 24 8 = 0xB0#8 ∧ ((0xB0038000#32 : Word).extractLsb' 16 8).toNat ≤ 3) := by decide

theorem witness_EveryTransactionUsesDeviceAddress : ∃ t, step reading = .next t ∧ t.history ≠ reading.history :=
  ⟨_, rfl, by decide⟩

theorem witness_ClosedBlockTouchesNoDevice : State.reset.opened = false ∧ State.reset.phase = .idle ∧
    ∃ t, step (offering State.reset 0x10000048 0) = .next t := ⟨rfl, rfl, _, rfl⟩

theorem witness_DevAddrUnobservableBeforeBegin : (offering State.reset 0x10000048 0).opened = false ∧
    (offering State.reset 0x10000048 0).phase = .idle := by decide

theorem witness_SampleDecodeIsSignExtension : (0x7FF0#16 : Half).extractLsb' 4 12 = (0x7FFF#16 : Half).extractLsb' 4 12 := by decide

/-- The boundary between the sign clauses. -/
theorem witness_ThresholdClampedBeforeShift : 0 ≤ (0#16 : Half).toInt ∧ (0xFFFF#16 : Half).toInt < 0 := by decide

/-- The ends of the 12-bit range. -/
theorem witness_RoundTripOfCounts : -2048 ≤ (bits16 (-2048)).toInt ∧ (bits16 (-2048)).toInt ≤ 2047 ∧
    -2048 ≤ (bits16 2047).toInt ∧ (bits16 2047).toInt ≤ 2047 := by decide

/-- 1 V at gain 0 on the 16-bit profile: a finite operand with a finite quotient. -/
theorem witness_TocountRespondsCount : ∃ x y, Binary32.ofBits 0x3F800000#32 = .finite x ∧
    Binary32.ofBits (rne32 (x / (range32 .fsr6144 / 2 ^ (15 - shiftOf .bits16)))) = .finite y :=
  ⟨1, _, by decide +kernel, (by decide +kernel : _ = Binary32.finite (finiteValue 0x45A6AAAB#32))⟩

/-- Both clauses at the boundary: exactly plus and minus the range of gain 0 on the 16-bit profile. -/
theorem witness_TocountSaturates : ∃ x y, Binary32.ofBits 0x40C49BA6#32 = .finite x ∧
    32768 * lsb .fsr6144 (shiftOf .bits16) ≤ x ∧ Binary32.ofBits 0xC0C49BA6#32 = .finite y ∧
    y ≤ -32768 * lsb .fsr6144 (shiftOf .bits16) :=
  ⟨range32 .fsr6144, -range32 .fsr6144, by decide +kernel, by decide +kernel, by decide +kernel, by decide +kernel⟩

/-- A finite binary32 for RneRoundsToNearestEven. -/
theorem witness_RneRoundsToNearestEven : Binary32.ofBits 0x3F800000#32 = .finite 1 ∧ Binary32.ofBits (rne32 (mkRat 1 3)) ≠ .nan := by
  decide +kernel

theorem witness_TovoltsResultIsNormal : (1#16 : Half) ≠ 0#16 := by decide

/-- Both conditional clauses: a NaN, and the largest subnormal. -/
theorem witness_TocountSpecialInputs : ((0x7FC00000#32 : Word).extractLsb' 23 8 = 255#8 ∧ (0x7FC00000#32 : Word).extractLsb' 0 23 ≠ 0) ∧
    (0x807FFFFF#32 : Word).extractLsb' 23 8 = 0#8 := by decide

/-- A word for each clause of the SETGAIN statement. -/
theorem witness_SetgainWordAtThePort : (offering State.reset 0x20000005 0).Ready ∧
    (0x20000005#32 : Word).extractLsb' 28 4 = 0x2#4 ∧ (0x20000005#32 : Word).extractLsb' 3 25 = 0 ∧
    gainCode .fsr0256 = (0x20000005#32 : Word).extractLsb' 0 3 ∧ (0x20000008#32 : Word).extractLsb' 3 25 ≠ 0 ∧
    5 < ((0x20000006#32 : Word).extractLsb' 0 3).toNat := by decide

end Sys2Proof.Tests
end

section
/-! # O55: rne32 is roundTiesToEven (R10)

A positive x lies in the binade of its leading bit. There rne32 counts it in units in the last place, `ulpCount x` units of
2^`ulpExp x`, and rounds that count. A binary32 value that is a whole number of those units is no nearer because the count is
rounded to nearest; one that is finer lies below the binade, and the binade's lower end is nearer than it is. A negative x is
the mirror image of |x|, and so is its pattern. -/

namespace Sys2Proof.Machine

/-! ## Rounding to an integer -/

/-- Round-half-even is half a unit off only at a tie, and then its result is even. -/
theorem toInteger_nearestEven_even_of_half {r : ℚ} (h : |r - toInteger .nearestEven r| = 1 / 2) :
    toInteger .nearestEven r % 2 = 0 := by
  apply toInteger_nearestEven_tie
  rcases toInteger_nearestEven_cases r with ⟨ht, hb⟩ | ⟨ht, hb⟩
  · rwa [ht, abs_of_nonneg (sub_nonneg.2 (Int.floor_le r))] at h
  · rw [ht, abs_of_nonpos (by push_cast; linarith [Int.lt_floor_add_one r])] at h
    push_cast at h
    linarith

/-- Any other integer is at least half a unit off. -/
theorem half_le_abs_sub_of_ne_toInteger {r : ℚ} {n : ℤ} (hn : n ≠ toInteger .nearestEven r) : 1 / 2 ≤ |r - n| := by
  by_contra h
  exact hn (toInteger_nearestEven_unique (not_le.1 h)).symm

theorem toInteger_nearestEven_nearest (r : ℚ) (n : ℤ) : |r - toInteger .nearestEven r| ≤ |r - n| := by
  by_cases hn : n = toInteger .nearestEven r
  · rw [hn]
  · exact (toInteger_nearestEven_error r).trans (half_le_abs_sub_of_ne_toInteger hn)

theorem toInteger_nearestEven_even_of_eq {r : ℚ} {n : ℤ} (hn : n ≠ toInteger .nearestEven r)
    (h : |r - toInteger .nearestEven r| = |r - n|) : toInteger .nearestEven r % 2 = 0 :=
  toInteger_nearestEven_even_of_half
    (le_antisymm (toInteger_nearestEven_error r) (h ▸ half_le_abs_sub_of_ne_toInteger hn))

theorem le_toInteger_nearestEven {r : ℚ} {n : ℤ} (h : (n : ℚ) ≤ r) : n ≤ toInteger .nearestEven r := by
  have he := abs_le.1 (toInteger_nearestEven_error r)
  have : (n : ℚ) < ((toInteger .nearestEven r + 1 : ℤ) : ℚ) := by push_cast; linarith [he.2]
  exact Int.lt_add_one_iff.1 (by exact_mod_cast this)

theorem toInteger_nearestEven_le {r : ℚ} {n : ℤ} (h : r ≤ n) : toInteger .nearestEven r ≤ n := by
  have he := abs_le.1 (toInteger_nearestEven_error r)
  have : ((toInteger .nearestEven r : ℤ) : ℚ) < ((n + 1 : ℤ) : ℚ) := by push_cast; linarith [he.1]
  exact Int.lt_add_one_iff.1 (by exact_mod_cast this)

/-- An even integer is reached from half a unit below it on. -/
theorem toInteger_nearestEven_lt_iff {r : ℚ} {n : ℤ} (hn : n % 2 = 0) :
    toInteger .nearestEven r < n ↔ r < n - 1 / 2 := by
  have he := abs_le.1 (toInteger_nearestEven_error r)
  constructor
  · intro h
    have hc : ((toInteger .nearestEven r : ℤ) : ℚ) ≤ n - 1 := by exact_mod_cast Int.le_sub_one_of_lt h
    refine lt_of_le_of_ne (by linarith [he.2]) fun hr => ?_
    have hq : ((toInteger .nearestEven r : ℤ) : ℚ) = ((n - 1 : ℤ) : ℚ) := by push_cast; linarith [he.2]
    have hq' : toInteger .nearestEven r = n - 1 := by exact_mod_cast hq
    have heven : toInteger .nearestEven r % 2 = 0 := by
      apply toInteger_nearestEven_even_of_half
      rw [hq, hr]
      push_cast
      ring_nf
      norm_num
    omega
  · intro h
    have : ((toInteger .nearestEven r : ℤ) : ℚ) < n := by linarith [he.1]
    exact_mod_cast this

/-! ## The unit in the last place -/

/-- The exponent of the unit in the last place that rne32 gives x > 0. -/
def ulpExp (x : ℚ) : ℤ := max (-149) (floorLog2 x - 23)

/-- x in units of 2^`ulpExp x`, rounded ties to even: the significand, before a carry into the exponent. -/
def ulpCount (x : ℚ) : ℤ := toInteger .nearestEven (x * pow2 (-ulpExp x))

theorem rneMagnitude_eq (x : ℚ) : rneMagnitude x =
    if 104 < ulpExp x then 0x7F800000 else (ulpExp x + 149).toNat * 2 ^ 23 + (ulpCount x).toNat := rfl

theorem neg_149_le_ulpExp (x : ℚ) : -149 ≤ ulpExp x := le_max_left _ _

theorem mul_pow2_neg_mul_pow2 (x : ℚ) (e : ℤ) : x * pow2 (-e) * pow2 e = x := by
  rw [mul_assoc, pow2_neg_mul, mul_one]

theorem pow2_23_add (e : ℤ) : pow2 (23 + e) = 2 ^ 23 * pow2 e := by
  rw [pow2_add]
  rfl

theorem pow2_24_add (e : ℤ) : pow2 (23 + (e + 1)) = 2 ^ 24 * pow2 e := by
  rw [pow2_23_add, pow2_add, show pow2 1 = 2 by norm_num [pow2]]
  ring

/-- Above the subnormals' unit, x is at least 2^23 units. -/
theorem pow2_23_mul_ulp_le {x : ℚ} (hx : 0 < x) (he : ulpExp x ≠ -149) : 2 ^ 23 * pow2 (ulpExp x) ≤ x := by
  have hexp : ulpExp x = floorLog2 x - 23 := by unfold ulpExp at he ⊢; omega
  rw [← pow2_23_add, hexp, add_sub_cancel]
  exact (floorLog2_spec hx).1

/-- x is less than 2^24 units. -/
theorem lt_pow2_24_mul_ulp {x : ℚ} (hx : 0 < x) : x < 2 ^ 24 * pow2 (ulpExp x) := by
  have hle : floorLog2 x + 1 ≤ 23 + (ulpExp x + 1) := by unfold ulpExp; omega
  calc x < pow2 (floorLog2 x + 1) := (floorLog2_spec hx).2
    _ ≤ pow2 (23 + (ulpExp x + 1)) := pow2_le hle
    _ = 2 ^ 24 * pow2 (ulpExp x) := pow2_24_add _

theorem two_pow_23_le_ulpCount {x : ℚ} (hx : 0 < x) (he : ulpExp x ≠ -149) : 2 ^ 23 ≤ ulpCount x := by
  apply le_toInteger_nearestEven
  refine le_of_mul_le_mul_right ?_ (pow2_pos (ulpExp x))
  rw [mul_pow2_neg_mul_pow2]
  exact_mod_cast pow2_23_mul_ulp_le hx he

theorem ulpCount_nonneg {x : ℚ} (hx : 0 < x) : 0 ≤ ulpCount x :=
  le_toInteger_nearestEven (by exact_mod_cast (mul_pos hx (pow2_pos _)).le)

theorem ulpCount_le {x : ℚ} (hx : 0 < x) : ulpCount x ≤ 2 ^ 24 := by
  apply toInteger_nearestEven_le
  refine le_of_mul_le_mul_right ?_ (pow2_pos (ulpExp x))
  rw [mul_pow2_neg_mul_pow2]
  exact_mod_cast (lt_pow2_24_mul_ulp hx).le

/-- The distance from x to n units, as a distance between counts. -/
theorem abs_sub_mul_ulp (x : ℚ) (n e : ℤ) : |x - n * pow2 e| = |x * pow2 (-e) - n| * pow2 e := by
  rw [← abs_of_pos (pow2_pos e), ← abs_mul, abs_of_pos (pow2_pos e), sub_mul, mul_pow2_neg_mul_pow2]

/-! ## Binary32 values as multiples of a power of two -/

/-- A significand of 24 bits times a power of two that is no finer than the subnormals' unit. -/
def Representable (z : ℚ) : Prop := ∃ n k : ℤ, |n| < 2 ^ 24 ∧ -149 ≤ k ∧ z = n * pow2 k

theorem Representable.neg {z : ℚ} (hz : Representable z) : Representable (-z) := by
  obtain ⟨n, k, hn, hk, rfl⟩ := hz
  exact ⟨-n, k, by rwa [abs_neg], hk, by push_cast; ring⟩

theorem representable_of_ofBits {w : Word} {z : ℚ} (h : Binary32.ofBits w = .finite z) : Representable z := by
  have hfr : (w.extractLsb' 0 23).toNat < 2 ^ 23 := BitVec.isLt _
  have hsign : ∀ m : ℕ, m < 2 ^ 24 → |(if w.getLsbD 31 then -1 else 1) * (m : ℤ)| < 2 ^ 24 := by
    intro m hm
    split <;> simp <;> omega
  unfold Binary32.ofBits at h
  dsimp only at h
  split at h
  · split at h <;> cases h
  · split at h <;> injection h with h <;> subst h
    · exact ⟨_, -149, hsign (w.extractLsb' 0 23).toNat (by omega), le_rfl, by push_cast; rfl⟩
    · exact ⟨_, _, hsign (2 ^ 23 + (w.extractLsb' 0 23).toNat) (by omega),
        show -149 ≤ ((w.extractLsb' 23 8).toNat : ℤ) - 150 by omega, by push_cast; rfl⟩

/-- A representable value is a whole number of x's units, or it lies below x's binade. -/
theorem Representable.multiple_or_lt {z : ℚ} (hz : Representable z) (x : ℚ) :
    (∃ n : ℤ, z = n * pow2 (ulpExp x)) ∨ (ulpExp x ≠ -149 ∧ z < 2 ^ 23 * pow2 (ulpExp x)) := by
  obtain ⟨n, k, hn, hk, rfl⟩ := hz
  rcases le_or_gt (ulpExp x) k with h | h
  · obtain ⟨d, rfl⟩ := Int.le.dest h
    refine .inl ⟨n * 2 ^ d, ?_⟩
    rw [add_comm, pow2_add]
    push_cast [pow2]
    ring
  · refine .inr ⟨by omega, ?_⟩
    have hn' : (n : ℚ) < 2 ^ 24 := by exact_mod_cast (abs_lt.1 hn).2
    calc n * pow2 k < 2 ^ 24 * pow2 k := mul_lt_mul_of_pos_right hn' (pow2_pos k)
      _ = pow2 (23 + (k + 1)) := (pow2_24_add k).symm
      _ ≤ pow2 (23 + ulpExp x) := pow2_le (by omega)
      _ = 2 ^ 23 * pow2 (ulpExp x) := pow2_23_add _

/-- No whole number of x's units is nearer to x than the rounded count of them, and an odd count has no rival. -/
theorem ulpCount_nearest_multiple (x : ℚ) (n : ℤ) :
    |x - ulpCount x * pow2 (ulpExp x)| ≤ |x - n * pow2 (ulpExp x)| ∧
    (|x - ulpCount x * pow2 (ulpExp x)| = |x - n * pow2 (ulpExp x)| → n ≠ ulpCount x → ulpCount x % 2 = 0) := by
  rw [abs_sub_mul_ulp, abs_sub_mul_ulp]
  constructor
  · exact mul_le_mul_of_nonneg_right (toInteger_nearestEven_nearest _ n) (pow2_pos _).le
  · intro h hne
    exact toInteger_nearestEven_even_of_eq hne (mul_right_cancel₀ (pow2_pos _).ne' h)

/-- The same against every representable value. -/
theorem ulpCount_nearest {x z : ℚ} (hx : 0 < x) (hz : Representable z) :
    |x - ulpCount x * pow2 (ulpExp x)| ≤ |x - z| ∧
    (|x - ulpCount x * pow2 (ulpExp x)| = |x - z| → z ≠ ulpCount x * pow2 (ulpExp x) → ulpCount x % 2 = 0) := by
  rcases hz.multiple_or_lt x with ⟨n, rfl⟩ | ⟨he, hlt⟩
  · obtain ⟨hle, heven⟩ := ulpCount_nearest_multiple x n
    exact ⟨hle, fun h hne => heven h (by rintro rfl; exact hne rfl)⟩
  · have hbelow := pow2_23_mul_ulp_le hx he
    have hcloser : |x - ulpCount x * pow2 (ulpExp x)| < |x - z| := by
      calc |x - ulpCount x * pow2 (ulpExp x)| ≤ |x - (2 ^ 23 : ℤ) * pow2 (ulpExp x)| :=
            (ulpCount_nearest_multiple x (2 ^ 23)).1
        _ = x - 2 ^ 23 * pow2 (ulpExp x) := by push_cast; exact abs_of_nonneg (sub_nonneg.2 hbelow)
        _ < x - z := by linarith
        _ ≤ |x - z| := le_abs_self _
    exact ⟨hcloser.le, fun h => absurd h hcloser.ne⟩

/-! ## Patterns -/

/-- The sign as the factor that Binary32.ofBits gives it. -/
def signFactor (neg : Bool) : ℚ := if neg then -1 else 1

/-- The pattern with this sign bit and these 31 magnitude bits. -/
def signedPattern (neg : Bool) (m : ℕ) : Word := BitVec.ofNat 32 (neg.toNat * 2 ^ 31 + m)

theorem rne32_of_ne_zero {x : ℚ} (hx : x ≠ 0) : rne32 x = signedPattern (decide (x < 0)) (rneMagnitude |x|) := by
  unfold rne32 signedPattern
  rcases lt_or_gt_of_ne hx with h | h
  · simp [h, abs_of_neg h]
  · simp [h.not_gt, hx, abs_of_pos h]

theorem signedPattern_getLsbD_zero (neg : Bool) (m : ℕ) : (signedPattern neg m).getLsbD 0 = decide (m % 2 = 1) := by
  have : (neg.toNat * 2 ^ 31 + m) % 2 = m % 2 := by omega
  rw [signedPattern, BitVec.getLsbD_ofNat, Nat.testBit_zero, this]
  simp

theorem ofBits_signedPattern_inf (neg : Bool) : Binary32.ofBits (signedPattern neg 0x7F800000) = .inf neg := by
  cases neg <;> decide

theorem signedPattern_toNat (neg : Bool) {m : ℕ} (hm : m < 2 ^ 31) :
    (signedPattern neg m).toNat = neg.toNat * 2 ^ 31 + m := by
  have := Bool.toNat_le neg
  rw [signedPattern, BitVec.toNat_ofNat, Nat.mod_eq_of_lt (by omega)]

/-- Reading a pattern whose exponent field is ex and whose fraction field is fr. -/
theorem ofBits_signedPattern (neg : Bool) {ex fr : ℕ} (hex : ex < 255) (hfr : fr < 2 ^ 23) :
    Binary32.ofBits (signedPattern neg (ex * 2 ^ 23 + fr)) =
      if ex = 0 then .finite (signFactor neg * fr * pow2 (-149))
      else .finite (signFactor neg * (2 ^ 23 + fr : ℕ) * pow2 (ex - 150)) := by
  have hw := signedPattern_toNat neg (m := ex * 2 ^ 23 + fr) (by omega)
  have hb := Bool.toNat_le neg
  generalize signedPattern neg (ex * 2 ^ 23 + fr) = w at hw ⊢
  have hs : w.getLsbD 31 = neg := by
    rw [BitVec.getLsbD, hw, Nat.testBit_eq_decide_div_mod_eq,
      show (neg.toNat * 2 ^ 31 + (ex * 2 ^ 23 + fr)) / 2 ^ 31 = neg.toNat by omega]
    cases neg <;> rfl
  have he : (w.extractLsb' 23 8).toNat = ex := by
    rw [BitVec.extractLsb'_toNat, hw, Nat.shiftRight_eq_div_pow]
    omega
  have hf : (w.extractLsb' 0 23).toNat = fr := by
    rw [BitVec.extractLsb'_toNat, hw, Nat.shiftRight_zero]
    omega
  simp only [Binary32.ofBits, hs, he, hf, signFactor, if_neg hex.ne]

/-- Exponent and count side by side stand for that many units, also where the count carries into the exponent. -/
theorem ofBits_signedPattern_ulp (neg : Bool) {d q : ℕ} (hq : q ≤ 2 ^ 24) (hnormal : d ≠ 0 → 2 ^ 23 ≤ q)
    (hm : d * 2 ^ 23 + q < 0x7F800000) :
    Binary32.ofBits (signedPattern neg (d * 2 ^ 23 + q)) = .finite (signFactor neg * (q * pow2 (d - 149))) := by
  rw [← mul_assoc]
  rcases lt_or_ge q (2 ^ 23) with hsub | hge
  · obtain rfl : d = 0 := by omega
    exact ofBits_signedPattern neg (ex := 0) (by omega) hsub
  rcases lt_or_eq_of_le hq with hlt | rfl
  · obtain ⟨f, rfl⟩ := Nat.le.dest hge
    rw [show d * 2 ^ 23 + (2 ^ 23 + f) = (d + 1) * 2 ^ 23 + f by ring,
      ofBits_signedPattern neg (by omega) (by omega), if_neg (by omega)]
    congr 3
    push_cast
    ring
  · rw [show d * 2 ^ 23 + 2 ^ 24 = (d + 2) * 2 ^ 23 + 0 by ring,
      ofBits_signedPattern neg (by omega) (by omega), if_neg (by omega),
      show ((d + 2 : ℕ) : ℤ) - 150 = d - 149 + 1 by push_cast; ring, pow2_add]
    norm_num [pow2]
    ring

/-! ## Overflow -/

/-- The count carries to 2^24 from half a unit below it on. -/
theorem ulpCount_lt_iff (x : ℚ) : ulpCount x < 2 ^ 24 ↔ x < (2 ^ 24 - 1 / 2) * pow2 (ulpExp x) := by
  rw [ulpCount, toInteger_nearestEven_lt_iff (by norm_num), ← mul_lt_mul_iff_left₀ (pow2_pos (ulpExp x)),
    mul_pow2_neg_mul_pow2]
  norm_num

theorem half_ulp_below_pow2_128 : (2 ^ 24 - 1 / 2) * pow2 104 = (2 : ℚ) ^ 128 - 2 ^ 103 := by
  rw [pow2_eq]
  norm_num

theorem rneMagnitude_of_overflow {x : ℚ} (h : (2 : ℚ) ^ 128 - 2 ^ 103 ≤ x) : rneMagnitude x = 0x7F800000 := by
  have hx : 0 < x := lt_of_lt_of_le (by norm_num) h
  have hexp : 104 ≤ ulpExp x := by
    by_contra hlt
    have hsmall : x < 2 ^ 24 * pow2 103 :=
      (lt_pow2_24_mul_ulp hx).trans_le (mul_le_mul_of_nonneg_left (pow2_le (by omega)) (by norm_num))
    rw [pow2_eq] at hsmall
    norm_num at h hsmall
    linarith
  rw [rneMagnitude_eq]
  rcases hexp.lt_or_eq with hgt | heq
  · rw [if_pos hgt]
  · have hcarry : ¬ ulpCount x < 2 ^ 24 := by
      rw [ulpCount_lt_iff, ← heq, half_ulp_below_pow2_128]
      exact not_lt.2 h
    have := ulpCount_le hx
    rw [if_neg (by omega), ← heq]
    omega

/-- Below the bound no exponent is out of range and no count carries into the pattern of Inf. -/
theorem rneMagnitude_of_finite {x : ℚ} (hx : 0 < x) (h : x < (2 : ℚ) ^ 128 - 2 ^ 103) :
    rneMagnitude x = (ulpExp x + 149).toNat * 2 ^ 23 + (ulpCount x).toNat ∧ rneMagnitude x < 0x7F800000 := by
  have hexp : ulpExp x ≤ 104 := by
    by_contra hgt
    have hbig : 2 ^ 23 * pow2 105 ≤ x :=
      (mul_le_mul_of_nonneg_left (pow2_le (by omega)) (by norm_num)).trans (pow2_23_mul_ulp_le hx (by omega))
    rw [pow2_eq] at hbig
    norm_num at h hbig
    linarith
  have hcount := ulpCount_le hx
  have hmin := neg_149_le_ulpExp x
  rw [rneMagnitude_eq, if_neg (by omega)]
  refine ⟨rfl, ?_⟩
  rcases hexp.lt_or_eq with hlt | heq
  · omega
  · have hnocarry : ulpCount x < 2 ^ 24 := by rwa [ulpCount_lt_iff, heq, half_ulp_below_pow2_128]
    omega

/-! ## What rne32 gives -/

/-- The real that rne32 rounds a nonzero x below the overflow bound to. -/
def rounded (x : ℚ) : ℚ := signFactor (decide (x < 0)) * (ulpCount |x| * pow2 (ulpExp |x|))

theorem ofBits_rne32_of_overflow {x : ℚ} (h : (2 : ℚ) ^ 128 - 2 ^ 103 ≤ |x|) :
    Binary32.ofBits (rne32 x) = .inf (decide (x < 0)) := by
  have hx : x ≠ 0 := abs_pos.1 (lt_of_lt_of_le (by norm_num) h)
  rw [rne32_of_ne_zero hx, rneMagnitude_of_overflow h, ofBits_signedPattern_inf]

theorem ofBits_rne32_of_finite {x : ℚ} (hx : x ≠ 0) (h : |x| < (2 : ℚ) ^ 128 - 2 ^ 103) :
    Binary32.ofBits (rne32 x) = .finite (rounded x) := by
  have ha : 0 < |x| := abs_pos.2 hx
  have hcount := ulpCount_le ha
  have hnonneg := ulpCount_nonneg ha
  have hmin := neg_149_le_ulpExp |x|
  have hnormal := two_pow_23_le_ulpCount ha
  obtain ⟨hm, hlt⟩ := rneMagnitude_of_finite ha h
  rw [hm] at hlt
  rw [rne32_of_ne_zero hx, hm, ofBits_signedPattern_ulp _ (by omega) (by omega) hlt, rounded]
  have hq : (((ulpCount |x|).toNat : ℕ) : ℚ) = ulpCount |x| := by exact_mod_cast Int.toNat_of_nonneg hnonneg
  rw [hq, show (((ulpExp |x| + 149).toNat : ℕ) : ℤ) - 149 = ulpExp |x| by omega]

/-- The last bit of the pattern is the last bit of the count. -/
theorem rne32_getLsbD_zero_of_even {x : ℚ} (hx : x ≠ 0) (h : |x| < (2 : ℚ) ^ 128 - 2 ^ 103)
    (heven : ulpCount |x| % 2 = 0) : (rne32 x).getLsbD 0 = false := by
  rw [rne32_of_ne_zero hx, (rneMagnitude_of_finite (abs_pos.2 hx) h).1, signedPattern_getLsbD_zero, decide_eq_false_iff_not]
  omega

theorem abs_signFactor_mul (neg : Bool) (a : ℚ) : |signFactor neg * a| = |a| := by
  cases neg <;> simp [signFactor]

theorem signFactor_mul_abs (x : ℚ) : signFactor (decide (x < 0)) * |x| = x := by
  rcases lt_or_ge x 0 with h | h
  · simp [signFactor, h, abs_of_neg h]
  · simp [signFactor, h.not_gt, abs_of_nonneg h]

/-- The distance from x, mirrored to the side of |x|. -/
theorem abs_sub_signFactor_mul (x y : ℚ) : |x - signFactor (decide (x < 0)) * y| = |(|x|) - y| := by
  rw [← abs_signFactor_mul (decide (x < 0)) (|x| - y), mul_sub, signFactor_mul_abs]

theorem Representable.exists_eq_signFactor_mul {z : ℚ} (hz : Representable z) (neg : Bool) :
    ∃ y, Representable y ∧ z = signFactor neg * y := by
  cases neg
  · exact ⟨z, hz, by simp [signFactor]⟩
  · exact ⟨-z, hz.neg, by simp [signFactor]⟩

/-- No representable value is nearer to x than `rounded x`, and an odd count has no rival. -/
theorem rounded_nearest {x z : ℚ} (hx : x ≠ 0) (hz : Representable z) :
    |x - rounded x| ≤ |x - z| ∧ (|x - rounded x| = |x - z| → z ≠ rounded x → ulpCount |x| % 2 = 0) := by
  obtain ⟨y, hy, rfl⟩ := hz.exists_eq_signFactor_mul (decide (x < 0))
  obtain ⟨hle, heven⟩ := ulpCount_nearest (abs_pos.2 hx) hy
  rw [rounded, abs_sub_signFactor_mul, abs_sub_signFactor_mul]
  exact ⟨hle, fun h hne => heven h fun heq => hne (by rw [heq])⟩

theorem ofBits_rne32_zero : Binary32.ofBits (rne32 0) = .finite 0 := by
  rw [show rne32 0 = signedPattern false (0 * 2 ^ 23 + 0) by decide, ofBits_signedPattern _ (by omega) (by omega)]
  simp

/-- Settles O55, by cases on the overflow bound: beyond it the pattern is Inf with x's sign, below it the rounded count is a
nearest one, and even at a tie; zero is exact. -/
theorem rneRoundsToNearestEven : Obligations.RneRoundsToNearestEven := by
  unfold Obligations.RneRoundsToNearestEven
  intro x
  rcases le_or_gt ((2 : ℚ) ^ 128 - 2 ^ 103) |x| with hover | hfin
  · rw [ofBits_rne32_of_overflow hover]
    exact ⟨hover, decide_eq_true_iff⟩
  by_cases hx : x = 0
  · subst hx
    rw [ofBits_rne32_zero]
    exact ⟨hfin, fun w z _ => ⟨by simp, fun _ _ => rfl⟩⟩
  · rw [ofBits_rne32_of_finite hx hfin]
    refine ⟨hfin, fun w z hz => ?_⟩
    obtain ⟨hle, heven⟩ := rounded_nearest hx (representable_of_ofBits hz)
    exact ⟨hle, fun h hne => rne32_getLsbD_zero_of_even hx hfin (heven h hne)⟩

end Sys2Proof.Machine
end

section
/-! # The commands with an operand check: what their next state can be

SETGAIN looks up its code, and a single-ended command guards its channel (40_configuration.md R101, 41_conversion.md R125). -/

namespace Sys2Proof.Machine

variable {s t : State}

theorem exec_setgain_cases {k : BitVec 3} (h : exec (.setgain k) s = .next t) :
    (gainOfCode k = none ∧ t = s.refuse .reservedGain (encode (.setgain k)).cmd) ∨
    (∃ g, gainOfCode k = some g ∧ t = { s with gain := g }.finish .none 0#32) := by
  simp only [exec, execSetgain] at h
  split at h <;> cases h
  · exact .inl ⟨‹_›, rfl⟩
  · exact .inr ⟨_, ‹_›, rfl⟩

theorem exec_readse_cases {ch : Byte} (h : exec (.readse ch) s = .next t) :
    (channelGuard ch = none ∧ t = s.finish .count 0#32) ∨
    (∃ c, channelGuard ch = some c ∧ t = s.whenOpen (.readse ch) fun s => s.startBlocking (.single c)) := by
  simp only [exec, execReadse] at h
  split at h <;> cases h
  · exact .inl ⟨‹_›, rfl⟩
  · exact .inr ⟨_, ‹_›, rfl⟩

theorem exec_startse_cases {ch : Byte} {cont : Bool} (h : exec (.startse ch cont) s = .next t) :
    (channelGuard ch = none ∧ t = s.finish .none 0#32) ∨
    (∃ c, channelGuard ch = some c ∧
      t = s.whenOpen (.startse ch cont) fun s => s.startNonBlocking (.single c) cont) := by
  simp only [exec, execStartse] at h
  split at h <;> cases h
  · exact .inl ⟨‹_›, rfl⟩
  · exact .inr ⟨_, ‹_›, rfl⟩

theorem exec_armcmp_cases {ch : Byte} {w : Half} (h : exec (.armcmp ch w) s = .next t) :
    (channelGuard ch = none ∧ t = s.finish .none 0#32) ∨
    (∃ c, channelGuard ch = some c ∧
      t = s.whenOpen (.armcmp ch w) fun s => (s.armSeq c w).finish .none 0#32) := by
  simp only [exec, execArmcmp] at h
  split at h <;> cases h
  · exact .inl ⟨‹_›, rfl⟩
  · exact .inr ⟨_, ‹_›, rfl⟩

end Sys2Proof.Machine
end

section
/-! # The settings: what a step writes of profile, parameters, gain, rate, device address and open bit (10_state.md R20 to R24)

The operations on the bus, the response port and the marks keep all six settings. So a command keeps them too, unless it is one
of the three configuration commands, each of which writes its own. O15 to O18 read that off one inversion lemma of step. -/

namespace Sys2Proof.Machine

/-- The fields of State that commands read as settings. -/
structure Settings where
  profile : Profile
  params  : Params
  gain    : Gain
  rate    : BitVec 3
  devAddr : BitVec 7
  opened  : Bool

def State.settings (s : State) : Settings where
  profile := s.profile
  params  := s.params
  gain    := s.gain
  rate    := s.rate
  devAddr := s.devAddr
  opened  := s.opened

/-- Instruction i writes the settings, from c to c'. -/
inductive Settings.Written (c c' : Settings) : Instr → Prop where
  | begin (a : BitVec 7) (h : c' = { c with devAddr := a, opened := true }) : Written c c' (.begin a)
  | setgain (k : BitVec 3) (g : Gain) (hk : gainOfCode k = some g) (h : c' = { c with gain := g }) : Written c c' (.setgain k)
  | setrate (k : BitVec 3) (h : c' = { c with rate := k }) : Written c c' (.setrate k)

variable (s : State)

/-! ## The shared operations keep the settings -/

@[simp] theorem State.take_settings : s.take.settings = s.settings := rfl

@[simp] theorem State.finish_settings (k : RspKind) (w : Word) : (s.finish k w).settings = s.settings := rfl

@[simp] theorem State.raise_settings (k : FaultKind) (w : Word) : (s.raise k w).settings = s.settings := by
  simp [State.settings]

@[simp] theorem State.refuse_settings (r : RefusalReason) (w : Word) : (s.refuse r w).settings = s.settings := by
  simp [State.settings]

@[simp] theorem State.regRead_settings (p : Byte) : (s.regRead p).2.settings = s.settings := rfl

@[simp] theorem State.startSeq_settings (sel : Selector) (cont : Bool) : (s.startSeq sel cont).settings = s.settings := by
  simp [State.startSeq_eq, State.settings]

@[simp] theorem State.startNonBlocking_settings (sel : Selector) (cont : Bool) :
    (s.startNonBlocking sel cont).settings = s.settings := by
  simp [State.startNonBlocking]

@[simp] theorem State.startBlocking_settings (sel : Selector) : (s.startBlocking sel).settings = s.settings :=
  s.startSeq_settings sel false

@[simp] theorem State.armSeq_settings (c : BitVec 2) (t : Half) : (s.armSeq c t).settings = s.settings := rfl

@[simp] theorem State.fetchCount_settings : s.fetchCount.settings = s.settings := by simp [State.fetchCount]

@[simp] theorem State.pollStep_settings : s.pollStep.settings = s.settings := by
  unfold State.pollStep
  split <;> simp

theorem State.whenOpen_settings (i : Instr) {body : State → State} (h : (body s).settings = s.settings) :
    (s.whenOpen i body).settings = s.settings := by
  cases ho : s.opened
  · rw [State.whenOpen_closed s i body ho, State.raise_settings]
  · rw [State.whenOpen_opened s i body ho, h]

variable {s} {t : State}

/-! ## What a command and a step can do to the settings -/

theorem exec_settings {i : Instr} (h : exec i s = .next t) :
    t.settings = s.settings ∨ s.settings.Written t.settings i := by
  cases i with
  | begin a =>
    cases h
    exact .inr (.begin a rfl)
  | setgain k =>
    obtain ⟨-, rfl⟩ | ⟨g, hk, rfl⟩ := exec_setgain_cases h
    · exact .inl (s.refuse_settings _ _)
    · exact .inr (.setgain k g hk rfl)
  | setrate k =>
    cases h
    exact .inr (.setrate k rfl)
  | readse ch =>
    left
    obtain ⟨-, rfl⟩ | ⟨c, -, rfl⟩ := exec_readse_cases h
    · exact s.finish_settings _ _
    · exact s.whenOpen_settings _ (s.startBlocking_settings _)
  | readdiff p =>
    cases h
    exact .inl (s.whenOpen_settings _ (s.startBlocking_settings _))
  | startse ch cont =>
    left
    obtain ⟨-, rfl⟩ | ⟨c, -, rfl⟩ := exec_startse_cases h
    · exact s.finish_settings _ _
    · exact s.whenOpen_settings _ (s.startNonBlocking_settings _ _)
  | startdiff p cont =>
    cases h
    exact .inl (s.whenOpen_settings _ (s.startNonBlocking_settings _ _))
  | poll =>
    cases h
    exact .inl (s.whenOpen_settings _ (by simp))
  | fetch =>
    cases h
    exact .inl (s.whenOpen_settings _ s.fetchCount_settings)
  | tovolts n =>
    cases h
    exact .inl (s.finish_settings _ _)
  | tocount v =>
    cases h
    exact .inl rfl
  | armcmp ch w =>
    left
    obtain ⟨-, rfl⟩ | ⟨c, -, rfl⟩ := exec_armcmp_cases h
    · exact s.finish_settings _ _
    · exact s.whenOpen_settings _ (by simp)

theorem step_of_resetReq (hr : s.resetReq = true) : step s = .next s.applyReset := by
  simp [step, nextAction_reset.2 hr]

theorem step_settings (hr : s.resetReq = false) (h : step s = .next t) :
    t.settings = s.settings ∨
      ∃ c rest i, s.port = c :: rest ∧ decode c = .ok i ∧ s.settings.Written t.settings i := by
  obtain ⟨hact, -⟩ | ⟨-, rfl⟩ | ⟨-, rfl⟩ | ⟨r, w, -, rfl⟩ | ⟨i, hact, hexec⟩ := step_next_cases h
  · simp [nextAction_reset.1 hact] at hr
  · exact .inl s.pollStep_settings
  · exact .inl rfl
  · exact .inl (by simp)
  · obtain ⟨-, -, -, -, c, rest, hport, hdec⟩ := nextAction_issue hact
    exact (exec_settings hexec).imp id fun hw => ⟨c, rest, i, hport, hdec, hw⟩

/-- Settles O15: reset copies both fields, and no other step writes them. -/
theorem profileAndParamsNeverChange : Obligations.ProfileAndParamsNeverChange := by
  unfold Obligations.ProfileAndParamsNeverChange
  intro s t h
  cases hr : s.resetReq with
  | true =>
    obtain rfl : s.applyReset = t := Host.Outcome.next.inj ((step_of_resetReq hr).symm.trans h)
    exact ⟨rfl, rfl⟩
  | false =>
    obtain hsame | ⟨c, rest, i, -, -, hw⟩ := step_settings hr h
    · exact ⟨congrArg Settings.profile hsame, congrArg Settings.params hsame⟩
    · cases hw with
      | begin a hset | setgain k g hk hset | setrate k hset =>
        exact ⟨congrArg Settings.profile hset, congrArg Settings.params hset⟩

/-- Settles O16: of the three commands that write settings only SETGAIN writes the gain, and it writes its operand's. -/
theorem onlySetgainWritesGain : Obligations.OnlySetgainWritesGain := by
  unfold Obligations.OnlySetgainWritesGain
  intro s t hr h hne
  obtain hsame | ⟨c, rest, i, hport, hdec, hw⟩ := step_settings hr h
  · exact absurd (congrArg Settings.gain hsame) hne
  · cases hw with
    | begin a hset | setrate k hset => exact absurd (congrArg Settings.gain hset) hne
    | setgain k g hk hset =>
      have hgain : t.gain = g := congrArg Settings.gain hset
      exact ⟨c, rest, k, hport, hdec, hgain ▸ gainCode_of_gainOfCode hk⟩

/-- Settles O17: of the three commands that write settings only SETRATE writes the rate, and it writes its operand. -/
theorem onlySetrateWritesRate : Obligations.OnlySetrateWritesRate := by
  unfold Obligations.OnlySetrateWritesRate
  intro s t hr h hne
  obtain hsame | ⟨c, rest, i, hport, hdec, hw⟩ := step_settings hr h
  · exact absurd (congrArg Settings.rate hsame) hne
  · cases hw with
    | begin a hset | setgain k g hk hset => exact absurd (congrArg Settings.rate hset) hne
    | setrate k hset => exact ⟨c, rest, k, hport, hdec, congrArg Settings.rate hset⟩

/-- Settles O18: of the three commands that write settings only BEGIN writes the device address and the open bit. -/
theorem onlyBeginWritesAddress : Obligations.OnlyBeginWritesAddress := by
  unfold Obligations.OnlyBeginWritesAddress
  intro s t hr h hne
  have changed : ¬ (t.devAddr = s.devAddr ∧ t.opened = s.opened) := by tauto
  obtain hsame | ⟨c, rest, i, hport, hdec, hw⟩ := step_settings hr h
  · exact absurd ⟨congrArg Settings.devAddr hsame, congrArg Settings.opened hsame⟩ changed
  · cases hw with
    | setgain k g hk hset | setrate k hset =>
      exact absurd ⟨congrArg Settings.devAddr hset, congrArg Settings.opened hset⟩ changed
    | begin a hset =>
      exact ⟨c, rest, a, hport, hdec, congrArg Settings.devAddr hset, congrArg Settings.opened hset⟩

end Sys2Proof.Machine
end

section
/-! # O19: one response for each finished command (10_state.md R27, 30_encoding.md R67, R68)

A command that finishes ends in `finish`, after bus work that touches neither the record of the run's commands nor the marks.
One that does not finish (a fault, a refusal, a blocking read that goes to Polling) leaves that record. -/

namespace Sys2Proof.Machine

/-- What `finish` adds to, and the marks. -/
structure Progress where
  cmdIndex  : Nat
  responses : List Response
  fault     : Option (FaultKind × Word)
  refused   : Option (RefusalReason × Word)

def State.progress (s : State) : Progress where
  cmdIndex  := s.cmdIndex
  responses := s.responses
  fault     := s.fault
  refused   := s.refused

/-- From s to t one command has finished, with one legal response of kind k. -/
def State.Responded (s : State) (k : RspKind) (t : State) : Prop :=
  t.cmdIndex = s.cmdIndex + 1 ∧ t.phase = .idle ∧ t.fault = s.fault ∧ t.refused = s.refused ∧
    ∃ r, t.responses = s.responses ++ [r] ∧ responseLegal r = true ∧ r.kind = k

/-- From s to t no command has finished. -/
def State.Unanswered (s t : State) : Prop := t.cmdIndex = s.cmdIndex ∧ t.responses = s.responses

variable {s u t : State}

theorem State.Responded.of_progress_eq {k : RspKind} (hu : u.progress = s.progress) (h : u.Responded k t) :
    s.Responded k t := by
  simp only [State.progress, Progress.mk.injEq] at hu
  obtain ⟨hidx, hrsp, hfault, hrefused⟩ := hu
  simpa only [State.Responded, hidx, hrsp, hfault, hrefused] using h

/-- `respond(kind, v); next` finishes a command, whatever bus work came before. -/
theorem State.responded_finish {k : RspKind} {w : Word} (hu : u.progress = s.progress)
    (hw : responseLegal { kind := k, rsp := w } = true) : s.Responded k (u.finish k w) :=
  .of_progress_eq hu ⟨rfl, rfl, rfl, rfl, _, rfl, hw, rfl⟩

theorem responseLegal_count (c : Half) : responseLegal { kind := .count, rsp := countRsp c } = true := by
  rw [responseLegal, extract_countRsp, ← countRsp, beq_self_eq_true]

theorem responseLegal_bool (b : Bool) : responseLegal { kind := .bool, rsp := boolRsp b } = true := by
  cases b <;> rfl

theorem State.responded_fetchCount (hu : u.progress = s.progress) : s.Responded .count u.fetchCount :=
  .of_progress_eq hu (responded_finish rfl (responseLegal_count _))

/-- The poll step finishes its command exactly when the device is ready. -/
theorem State.pollStep_responded_or_unanswered (s : State) : s.Responded .count s.pollStep ∨ s.Unanswered s.pollStep := by
  unfold State.pollStep
  split
  · exact .inl (responded_fetchCount rfl)
  · exact .inr ⟨rfl, rfl⟩

/-- The opened check adds one way out, the fault mark, and that is no response. -/
theorem State.whenOpen_responded_or_unanswered (i : Instr) {body : State → State} {k : RspKind}
    (h : s.Responded k (body s) ∨ s.Unanswered (body s)) :
    s.Responded k (s.whenOpen i body) ∨ s.Unanswered (s.whenOpen i body) := by
  cases ho : s.opened
  · rw [State.whenOpen_closed s i body ho]
    exact .inr ⟨s.raise_cmdIndex _ _, s.raise_responses _ _⟩
  · rwa [State.whenOpen_opened s i body ho]

theorem exec_responded_or_unanswered {i : Instr} (h : exec i s = .next t) :
    s.Responded (rspKindOf i) t ∨ s.Unanswered t := by
  cases i with
  | begin a =>
    cases h
    exact .inl (State.responded_finish rfl rfl)
  | setgain k =>
    obtain ⟨-, rfl⟩ | ⟨g, -, rfl⟩ := exec_setgain_cases h
    · exact .inr ⟨s.refuse_cmdIndex _ _, s.refuse_responses _ _⟩
    · exact .inl (State.responded_finish rfl rfl)
  | setrate k =>
    cases h
    exact .inl (State.responded_finish rfl rfl)
  | readse ch =>
    obtain ⟨-, rfl⟩ | ⟨c, -, rfl⟩ := exec_readse_cases h
    · exact .inl (State.responded_finish rfl (responseLegal_count 0#16))
    · exact State.whenOpen_responded_or_unanswered _ (.inr ⟨rfl, rfl⟩)
  | readdiff p =>
    cases h
    exact State.whenOpen_responded_or_unanswered _ (.inr ⟨rfl, rfl⟩)
  | startse ch cont =>
    obtain ⟨-, rfl⟩ | ⟨c, -, rfl⟩ := exec_startse_cases h
    · exact .inl (State.responded_finish rfl rfl)
    · exact State.whenOpen_responded_or_unanswered _ (.inl (State.responded_finish rfl rfl))
  | startdiff p cont =>
    cases h
    exact State.whenOpen_responded_or_unanswered _ (.inl (State.responded_finish rfl rfl))
  | poll =>
    cases h
    exact State.whenOpen_responded_or_unanswered _ (.inl (State.responded_finish rfl (responseLegal_bool _)))
  | fetch =>
    cases h
    exact State.whenOpen_responded_or_unanswered _ (.inl (State.responded_fetchCount rfl))
  | tovolts n =>
    cases h
    exact .inl (State.responded_finish rfl rfl)
  | tocount v =>
    cases h
    exact .inl (State.responded_finish rfl (responseLegal_count _))
  | armcmp ch w =>
    obtain ⟨-, rfl⟩ | ⟨c, -, rfl⟩ := exec_armcmp_cases h
    · exact .inl (State.responded_finish rfl rfl)
    · exact State.whenOpen_responded_or_unanswered _ (.inl (State.responded_finish rfl rfl))

/-- Settles O19, by cases on the action: only a poll step and an issued command can finish a command. -/
theorem finishedCommandRespondsOnce : Obligations.FinishedCommandRespondsOnce := by
  unfold Obligations.FinishedCommandRespondsOnce
  intro s t hr h
  obtain ⟨hact, -⟩ | ⟨hact, rfl⟩ | ⟨-, rfl⟩ | ⟨r, w, -, rfl⟩ | ⟨i, hact, hexec⟩ := step_next_cases h
  · simp [nextAction_reset.1 hact] at hr
  · obtain ⟨-, hpolling⟩ := nextAction_pollOnce.1 hact
    obtain ⟨hidx, hidle, hfault, hrefused, r, hrsp, hlegal, hkind⟩ | hnone := s.pollStep_responded_or_unanswered
    · exact .inl ⟨hidx, hidle, hfault, hrefused, r, hrsp, hlegal, .inl ⟨hpolling, hkind⟩⟩
    · exact .inr hnone
  · exact .inr ⟨rfl, rfl⟩
  · exact .inr ⟨s.take.refuse_cmdIndex _ _, s.take.refuse_responses _ _⟩
  · obtain hdone | hnone := exec_responded_or_unanswered hexec
    · obtain ⟨hidx, hidle, hfault, hrefused, r, hrsp, hlegal, hkind⟩ := hdone.of_progress_eq (s := s) rfl
      exact .inl ⟨hidx, hidle, hfault, hrefused, r, hrsp, hlegal, .inr ⟨i, hact, hkind⟩⟩
    · exact .inr hnone

end Sys2Proof.Machine
end

section
/-! # O42: the device address before BEGIN (10_state.md R24, 70_reset_and_hazards.md R201)

In a closed block replacing the device address commutes with every operation that a command reaches: those that would put it on
the bus stand behind the opened check. BEGIN and reset overwrite it, so after them nothing of it is left. -/

namespace Sys2Proof.Machine

/-- s with another device address. -/
def State.withDevAddr (s : State) (a : BitVec 7) : State := { s with devAddr := a }

variable (s : State) (a : BitVec 7)

@[simp] theorem State.nextAction_withDevAddr : (s.withDevAddr a).nextAction = s.nextAction := rfl

@[simp] theorem State.take_withDevAddr : (s.withDevAddr a).take = s.take.withDevAddr a := rfl

@[simp] theorem State.finish_withDevAddr (k : RspKind) (w : Word) :
    (s.withDevAddr a).finish k w = (s.finish k w).withDevAddr a := rfl

@[simp] theorem State.raise_withDevAddr (k : FaultKind) (w : Word) :
    (s.withDevAddr a).raise k w = (s.raise k w).withDevAddr a := by
  cases hf : s.fault <;> simp [State.raise, State.withDevAddr, hf]

@[simp] theorem State.refuse_withDevAddr (r : RefusalReason) (w : Word) :
    (s.withDevAddr a).refuse r w = (s.refuse r w).withDevAddr a := by
  cases hf : s.refused <;> simp [State.refuse, State.withDevAddr, hf]

theorem State.whenOpen_withDevAddr (i : Instr) (body : State → State) (hclosed : s.opened = false) :
    (s.withDevAddr a).whenOpen i body = (s.whenOpen i body).withDevAddr a := by
  rw [State.whenOpen_closed s i body hclosed, State.whenOpen_closed (s.withDevAddr a) i body hclosed,
    State.raise_withDevAddr]

/-- BEGIN overwrites the device address. -/
theorem exec_begin_withDevAddr (b : BitVec 7) : exec (.begin b) (s.withDevAddr a) = exec (.begin b) s := rfl

variable {s}

/-- Every command but BEGIN carries a closed block's device address through unread. -/
theorem exec_withDevAddr {i : Instr} {t : State} (hclosed : s.opened = false) (hi : ∀ b, i ≠ .begin b)
    (h : exec i s = .next t) : exec i (s.withDevAddr a) = .next (t.withDevAddr a) := by
  have hopen := fun j body => s.whenOpen_withDevAddr a j body hclosed
  cases i with
  | begin b => exact absurd rfl (hi b)
  | setgain k =>
    obtain ⟨hk, rfl⟩ | ⟨g, hk, rfl⟩ := exec_setgain_cases h
    · simp [exec, execSetgain, hk]
    · simp only [exec, execSetgain, hk]
      rfl
  | setrate k | tovolts n | tocount v =>
    cases h
    rfl
  | readdiff p | startdiff p cont | poll | fetch =>
    cases h
    exact congrArg Host.Outcome.next (hopen _ _)
  | readse ch =>
    obtain ⟨hg, rfl⟩ | ⟨c, hg, rfl⟩ := exec_readse_cases h <;> simp [exec, execReadse, hg, hopen]
  | startse ch cont =>
    obtain ⟨hg, rfl⟩ | ⟨c, hg, rfl⟩ := exec_startse_cases h <;> simp [exec, execStartse, hg, hopen]
  | armcmp ch w =>
    obtain ⟨hg, rfl⟩ | ⟨c, hg, rfl⟩ := exec_armcmp_cases h <;> simp [exec, execArmcmp, hg, hopen]

/-- A command other than BEGIN leaves a closed block closed. -/
theorem exec_keeps_closed {i : Instr} {t : State} (hclosed : s.opened = false) (hi : ∀ b, i ≠ .begin b)
    (h : exec i s = .next t) : t.opened = false := by
  obtain hsame | hw := exec_settings h
  · exact (congrArg Settings.opened hsame).trans hclosed
  · cases hw with
    | begin b hset => exact absurd rfl (hi b)
    | setgain k g hk hset | setrate k hset => exact (congrArg Settings.opened hset).trans hclosed

/-- A step of a closed idle block does not look at the device address, or carries it through and leaves the block closed. -/
theorem step_withDevAddr (hclosed : s.opened = false) (hidle : s.phase = .idle) :
    step (s.withDevAddr a) = step s ∨
      ∃ t, step s = .next t ∧ step (s.withDevAddr a) = .next (t.withDevAddr a) ∧ t.opened = false := by
  unfold step
  rw [State.nextAction_withDevAddr]
  cases hact : s.nextAction with
  | reset | haltedByFault k w | haltedByRefusal r w => exact .inl rfl
  | pollOnce => cases hidle.symm.trans (nextAction_pollOnce.1 hact).2
  | await => exact .inr ⟨s, rfl, rfl, hclosed⟩
  | reject r w => exact .inr ⟨s.take.refuse r w, rfl, by simp, by simpa using hclosed⟩
  | issue i =>
    by_cases hbegin : ∃ b, i = .begin b
    · obtain ⟨b, rfl⟩ := hbegin
      exact .inl (exec_begin_withDevAddr s.take a b)
    · have hi : ∀ b, i ≠ .begin b := not_exists.1 hbegin
      have hclosed' : s.take.opened = false := hclosed
      obtain ⟨t, ht⟩ := exec_next s.take i
      exact .inr ⟨t, ht, exec_withDevAddr a hclosed' hi ht, exec_keeps_closed hclosed' hi ht⟩

/-- Settles O42: the two steps are the same, or their next states differ in the device address of a closed block. -/
theorem devAddrUnobservableBeforeBegin : Obligations.DevAddrUnobservableBeforeBegin := by
  unfold Obligations.DevAddrUnobservableBeforeBegin
  intro s a hclosed hidle
  obtain hsame | ⟨t, ht, ht', hclosed'⟩ := step_withDevAddr a hclosed hidle
  · rw [show step { s with devAddr := a } = step s from hsame]
    cases step s with
    | next t => exact ⟨rfl, fun _ => rfl⟩
    | fault f | refused r => rfl
  · rw [ht, show step { s with devAddr := a } = .next (t.withDevAddr a) from ht']
    exact ⟨rfl, fun hopen => by simp [hclosed'] at hopen⟩

end Sys2Proof.Machine
end

section
/-! # The free block's step, and the constructed state (30_encoding.md R60, 70_reset_and_hazards.md R200) -/

namespace Sys2Proof.Machine

theorem State.take_of_port {s : State} {c : Command} {rest : List Command} (h : s.port = c :: rest) :
    s.take = { s with port := rest } := by
  simp [State.take, h]

/-- Settles O9: in a free block the action is the command port's. -/
theorem stepRunsDecodedCommand : Obligations.StepRunsDecodedCommand := by
  unfold Obligations.StepRunsDecodedCommand
  intro s hready
  have hact := nextAction_of_ready hready
  constructor
  · intro c rest i hport hdec
    rw [hport, portAction, hdec] at hact
    rw [step, hact, ← State.take_of_port hport]
  · intro hport
    rw [hport, portAction] at hact
    rw [step, hact]

/-- Nothing has been observed and nothing is marked, so each clause is about an empty record. -/
theorem State.inv_resetWith (p : Profile) (q : Params) : (State.resetWith p q).Inv where
  history_legal := rfl
  responses_legal := rfl
  index_le := Nat.le_refl 0
  reads_eq := rfl
  polling_open h := nomatch h
  one_mark := .inl rfl
  fault_closed _ := rfl
  fault_truthful := rfl
  refusal_truthful := rfl

/-- Settles O13: the invariant holds of the empty record, and the values are those that construction writes. -/
theorem constructionHasInvariant : Obligations.ConstructionHasInvariant := by
  unfold Obligations.ConstructionHasInvariant
  intro p q
  exact ⟨State.inv_resetWith p q, rfl, rfl, rfl, rfl, rfl, rfl, rfl, rfl, rfl, rfl⟩

end Sys2Proof.Machine
end

section
/-! # O43 to O46: the register accesses and the two write paths (20_memory.md R43, R44, R47, R51) -/

namespace Sys2Proof.Machine

theorem hiByte_append_loByte (w : Half) : hiByte w ++ loByte w = w := by
  rw [hiByte, loByte, BitVec.extractLsb'_append_extractLsb'_eq_extractLsb' (by rfl)]
  exact BitVec.extractLsb'_eq_self

/-- Two bytes as a big-endian word. -/
theorem toNat_append_byte (b0 b1 : Byte) : (b0 ++ b1).toNat = b0.toNat * 256 + b1.toNat := by
  rw [BitVec.toNat_append, ← Nat.shiftLeft_add_eq_or_of_lt b1.isLt, Nat.shiftLeft_eq]

/-- Settles O43: the two bytes are the halves of the word. -/
theorem regWriteIsOneBigEndianWrite : Obligations.RegWriteIsOneBigEndianWrite := by
  unfold Obligations.RegWriteIsOneBigEndianWrite
  intro s ptr w
  exact ⟨hiByte w, loByte w, hiByte_append_loByte w, s.regWrite_eq ptr w⟩

/-- Settles O44: the two bytes are the device's next answer. -/
theorem regReadIsPointerWriteThenRead : Obligations.RegReadIsPointerWriteThenRead := by
  unfold Obligations.RegReadIsPointerWriteThenRead
  intro s ptr
  exact ⟨s.nextAnswer.1, s.nextAnswer.2, rfl, toNat_append_byte _ _, s.regRead_state ptr⟩

/-- Settles O45: the device answers with the two bytes of the word. -/
theorem anyDeviceWordCanBeRead : Obligations.AnyDeviceWordCanBeRead := by
  unfold Obligations.AnyDeviceWordCanBeRead
  intro s ptr w
  refine ⟨(hiByte w, loByte w), ?_⟩
  rw [State.regRead_word, State.nextAnswer_cons _ (hiByte w, loByte w) s.oracle rfl]
  exact hiByte_append_loByte w

/-- Settles O46: the pointers stand in the two sequences' equations. -/
theorem writeOrderOfEachPath : Obligations.WriteOrderOfEachPath := by
  unfold Obligations.WriteOrderOfEachPath
  intro s sel cont c t
  constructor
  · exact ⟨_, _, _, _, _, _, congrArg State.history (s.startSeq_eq sel cont)⟩
  · exact ⟨_, _, _, _, _, _, congrArg State.history (s.armSeq_eq c t)⟩

end Sys2Proof.Machine
end

section
/-! # What a command can do (20_memory.md R40, R50; 60_exceptions.md R180 to R183)

A command does bus work and then ends in one of four ways: it finishes, goes to Polling, faults or is refused. Bus work is whole
register accesses at the device address, or BEGIN's Open, and leaves the marks alone. -/

namespace Sys2Proof.Machine

/-- The transaction goes to the device address a, or it is the Open of the address that the block t now holds. -/
def BusEvent.SentTo (a : BitVec 7) (t : State) : BusEvent → Prop
  | .openDev b  => t.devAddr = b ∧ t.opened = true
  | .write b _  => b = a
  | .read b _ _ => b = a

/-- From s to t the block has put whole legal register accesses on the bus, and counted their Reads. -/
def State.Transacted (s t : State) : Prop :=
  ∃ es, t.history = s.history ++ es ∧ t.reads = s.reads + readCount es ∧ historyLegal es = true ∧
    ∀ e ∈ es, e.SentTo s.devAddr t

/-- From s to t the block has done bus work: transactions, and the marks untouched. -/
structure State.Worked (s t : State) : Prop where
  transacted : s.Transacted t
  fault_eq   : t.fault = s.fault
  refused_eq : t.refused = s.refused

/-- What the state after instruction i can be: the four ends of a command. -/
inductive State.Does (s : State) (i : Instr) : State → Prop where
  | finishes (u : State) (k : RspKind) (w : Word) (hu : s.Worked u) : Does s i (u.finish k w)
  | polls (sel : Selector) (ho : s.opened = true) : Does s i (s.startBlocking sel)
  | faults (hclosed : s.opened = false) (hi : i.needsOpen = true) : Does s i (s.raise .notOpen (encode i).cmd)
  | refuses (hi : ¬ i.WellFormed) : Does s i (s.refuse .reservedGain (encode i).cmd)

variable {s t : State}

/-! ## Bus work -/

theorem State.transacted_of_history_eq (hh : t.history = s.history) (hr : t.reads = s.reads) : s.Transacted t :=
  ⟨[], by simp [hh], hr, rfl, by simp⟩

theorem State.worked_of_eq (hh : t.history = s.history) (hr : t.reads = s.reads) (hf : t.fault = s.fault)
    (hrf : t.refused = s.refused) : s.Worked t :=
  ⟨transacted_of_history_eq hh hr, hf, hrf⟩

variable (s)

theorem State.worked_begin (a : BitVec 7) : s.Worked { s.emit (.openDev a) with devAddr := a, opened := true } :=
  ⟨⟨[.openDev a], rfl, rfl, rfl, by simp [BusEvent.SentTo]⟩, rfl, rfl⟩

theorem State.worked_startSeq (sel : Selector) (cont : Bool) : s.Worked (s.startSeq sel cont) := by
  rw [State.startSeq_eq]
  exact ⟨⟨_, rfl, rfl, rfl, by simp [BusEvent.SentTo]⟩, rfl, rfl⟩

theorem State.worked_armSeq (c : BitVec 2) (w : Half) : s.Worked (s.armSeq c w) := by
  rw [State.armSeq_eq]
  exact ⟨⟨_, rfl, rfl, rfl, by simp [BusEvent.SentTo]⟩, rfl, rfl⟩

variable {s}

/-- A register read after other bus work of a block that keeps its device address. -/
theorem State.Worked.regRead {u : State} {p : Byte} (hu : s.Worked u) (ha : u.devAddr = s.devAddr)
    (hp : readablePtr p = true) : s.Worked (u.regRead p).2 := by
  obtain ⟨⟨es, hhist, hreads, hlegal, hsent⟩, hf, hrf⟩ := hu
  rw [State.regRead_state]
  refine ⟨⟨es ++ [.write u.devAddr [p], .read u.devAddr u.nextAnswer.1 u.nextAnswer.2], ?_, ?_, ?_, ?_⟩, hf, hrf⟩
  · rw [hhist, List.append_assoc]
  · rw [hreads, readCount_append, ← Nat.add_assoc]
    rfl
  · exact historyLegal_append _ _ hlegal (by simp [historyLegal, hp])
  · exact List.forall_mem_append.2 ⟨hsent, by simp [BusEvent.SentTo, ha]⟩

theorem State.worked_regRead (s : State) {p : Byte} (hp : readablePtr p = true) : s.Worked (s.regRead p).2 :=
  (worked_of_eq rfl rfl rfl rfl).regRead rfl hp

/-! ## Commands -/

variable {i : Instr}

/-- Finishing changes nothing that a transaction writes. -/
theorem State.Worked.transacted_finish {u : State} (hu : s.Worked u) (k : RspKind) (w : Word) :
    s.Transacted (u.finish k w) := hu.transacted

theorem State.transacted_startBlocking (sel : Selector) : s.Transacted (s.startBlocking sel) :=
  (s.worked_startSeq sel false).transacted

theorem State.Does.transacted (h : s.Does i t) : s.Transacted t := by
  cases h with
  | finishes u k w hu => exact hu.transacted_finish k w
  | polls sel ho => exact transacted_startBlocking sel
  | faults hclosed hi => exact transacted_of_history_eq (s.raise_history _ _) (s.raise_reads _ _)
  | refuses hi => exact transacted_of_history_eq (s.refuse_history _ _) (s.refuse_reads _ _)

theorem State.does_finish {k : RspKind} {w : Word} {u : State} (hh : u.history = s.history)
    (hr : u.reads = s.reads) (hf : u.fault = s.fault) (hrf : u.refused = s.refused) : s.Does i (u.finish k w) :=
  .finishes u k w (worked_of_eq hh hr hf hrf)

/-- The opened check adds one way out, the fault, to those of the body. -/
theorem State.does_whenOpen {body : State → State} (hi : i.needsOpen = true)
    (h : s.opened = true → s.Does i (body s)) : s.Does i (s.whenOpen i body) := by
  cases ho : s.opened
  · rw [State.whenOpen_closed s i body ho]
    exact .faults ho hi
  · rw [State.whenOpen_opened s i body ho]
    exact h ho

theorem channelGuard_some {ch : Byte} {c : BitVec 2} (h : channelGuard ch = some c) : ch.toNat ≤ 3 := by
  by_contra hgt
  simp [channelGuard_of_gt (Nat.lt_of_not_le hgt)] at h

/-- The inversion of exec: bus work, and one of the four ends. -/
theorem exec_does (h : exec i s = .next t) : s.Does i t := by
  cases i with
  | begin a =>
    cases h
    exact .finishes _ _ _ (s.worked_begin a)
  | setgain k =>
    obtain ⟨hk, rfl⟩ | ⟨g, -, rfl⟩ := exec_setgain_cases h
    · have hgt := gainOfCode_eq_none.1 hk
      exact .refuses (by simpa [Instr.wellFormed] using hgt)
    · exact State.does_finish rfl rfl rfl rfl
  | setrate k | tovolts n | tocount v =>
    cases h
    exact State.does_finish rfl rfl rfl rfl
  | readse ch =>
    obtain ⟨-, rfl⟩ | ⟨c, hc, rfl⟩ := exec_readse_cases h
    · exact State.does_finish rfl rfl rfl rfl
    · exact State.does_whenOpen (decide_eq_true (channelGuard_some hc)) (.polls _)
  | readdiff p =>
    cases h
    exact State.does_whenOpen rfl (.polls _)
  | startse ch cont =>
    obtain ⟨-, rfl⟩ | ⟨c, hc, rfl⟩ := exec_startse_cases h
    · exact State.does_finish rfl rfl rfl rfl
    · exact State.does_whenOpen (decide_eq_true (channelGuard_some hc)) fun _ => .finishes _ _ _ (s.worked_startSeq _ _)
  | startdiff p cont =>
    cases h
    exact State.does_whenOpen rfl fun _ => .finishes _ _ _ (s.worked_startSeq _ _)
  | poll | fetch =>
    cases h
    exact State.does_whenOpen rfl fun _ => .finishes _ _ _ (s.worked_regRead rfl)
  | armcmp ch w =>
    obtain ⟨-, rfl⟩ | ⟨c, hc, rfl⟩ := exec_armcmp_cases h
    · exact State.does_finish rfl rfl rfl rfl
    · exact State.does_whenOpen (decide_eq_true (channelGuard_some hc)) fun _ => .finishes _ _ _ (s.worked_armSeq _ _)

/-! ## Steps -/

/-- A poll step is bus work, after which the command finishes or the block polls on. -/
theorem State.pollStep_cases (s : State) :
    (∃ u k w, s.Worked u ∧ s.pollStep = u.finish k w) ∨
      (s.Worked s.pollStep ∧ s.pollStep.opened = s.opened) := by
  unfold State.pollStep
  split
  · exact .inl ⟨_, _, _, (s.worked_regRead rfl).regRead rfl rfl, rfl⟩
  · exact .inr ⟨s.worked_regRead rfl, rfl⟩

theorem step_transacted (h : step s = .next t) : s.Transacted t := by
  obtain ⟨-, rfl⟩ | ⟨-, rfl⟩ | ⟨-, rfl⟩ | ⟨r, w, -, rfl⟩ | ⟨i, -, hexec⟩ := step_next_cases h
  · exact State.transacted_of_history_eq rfl rfl
  · obtain ⟨u, k, w, hu, he⟩ | ⟨hu, -⟩ := s.pollStep_cases
    · exact he ▸ hu.transacted_finish k w
    · exact hu.transacted
  · exact State.transacted_of_history_eq rfl rfl
  · exact State.transacted_of_history_eq (s.take.refuse_history r w) (s.take.refuse_reads r w)
  · exact (exec_does hexec).transacted

/-- Settles O40: what a step appends is whole register accesses to the device address, or BEGIN's Open. -/
theorem everyTransactionUsesDeviceAddress : Obligations.EveryTransactionUsesDeviceAddress := by
  unfold Obligations.EveryTransactionUsesDeviceAddress
  intro s t h
  obtain ⟨es, hhist, -, -, hsent⟩ := step_transacted h
  refine ⟨es, hhist, fun e he => ?_⟩
  have hto := hsent e he
  cases e <;> exact hto

end Sys2Proof.Machine
end

section
/-! # The decoder reads back what the encoder writes (30_encoding.md R62, R63) -/

namespace Sys2Proof

theorem encodeFormat (i : Instr) : Laws.EncodeFormat.Statement i := by
  cases i with
  | begin a => exact Laws.EncodeFormat.begin a
  | setgain k => exact Laws.EncodeFormat.setgain k
  | setrate k => exact Laws.EncodeFormat.setrate k
  | readse ch => exact Laws.EncodeFormat.readse ch
  | readdiff p => exact Laws.EncodeFormat.readdiff p
  | startse ch cont => exact Laws.EncodeFormat.startse ch cont
  | startdiff p cont => exact Laws.EncodeFormat.startdiff p cont
  | poll => exact Laws.EncodeFormat.poll
  | fetch => exact Laws.EncodeFormat.fetch
  | tovolts n => exact Laws.EncodeFormat.tovolts n
  | tocount v => exact Laws.EncodeFormat.tocount v
  | armcmp ch t => exact Laws.EncodeFormat.armcmp ch t

/-- Each operand stands at the place where the decoder reads it. -/
theorem operands_encode (i : Instr) : i.op.operands (encode i) = i := by
  cases i with
  | begin | setgain | setrate | readse | readdiff | tovolts =>
    simp only [Instr.op, Op.operands, encode, BitVec.extractLsb'_append_eq_right]
  | startse ch cont =>
    have hcont : (0x6#4 ++ 0#18 ++ BitVec.ofBool cont ++ 0#1 ++ ch).getLsbD 9 = cont := by
      rw [BitVec.getLsbD_append]
      cases cont <;> rfl
    simp only [Instr.op, Op.operands, encode, BitVec.extractLsb'_append_eq_right, hcont]
  | startdiff p cont =>
    have hcont : (0x6#4 ++ 0#18 ++ BitVec.ofBool cont ++ 1#1 ++ 0#6 ++ p).getLsbD 9 = cont := by
      rw [BitVec.getLsbD_append]
      cases cont <;> rfl
    simp only [Instr.op, Op.operands, encode, BitVec.extractLsb'_append_eq_right, hcont]
  | poll | fetch | tocount => rfl
  | armcmp ch t =>
    have hch : (0xB#4 ++ 0#4 ++ ch ++ t).extractLsb' 16 8 = ch := by
      rw [BitVec.extractLsb'_append_eq_of_le (by decide)]
      exact BitVec.extractLsb'_append_eq_right
    simp only [Instr.op, Op.operands, encode, BitVec.extractLsb'_append_eq_right, hch]

theorem gainReserved_encode {i : Instr} (hi : i.WellFormed) : i.op.gainReserved (encode i).cmd = false := by
  cases i with
  | setgain k =>
    have hk : k.toNat ≤ 5 := of_decide_eq_true hi
    simp only [Instr.op, Op.gainReserved, encode, BitVec.extractLsb'_append_eq_right]
    simpa using hk
  | _ => rfl

theorem decode_encode {i : Instr} (hi : i.WellFormed) : decode (encode i) = .ok i := by
  obtain ⟨hop, hzero⟩ := encodeFormat i
  simp [decode, hop, hzero, gainReserved_encode hi, operands_encode]

/-- A command that needs the device is read back from its command word alone. -/
theorem decode_cmd_of_needsOpen {i : Instr} (hi : i.needsOpen = true) :
    decode { cmd := (encode i).cmd, opnd := 0#32 } = .ok i := by
  cases i with
  | begin | setgain | setrate | tovolts | tocount => cases hi
  | readse | readdiff | startse | startdiff | armcmp => exact decode_encode (by rfl)
  | poll => exact decode_encode (i := .poll) rfl
  | fetch => exact decode_encode (i := .fetch) rfl

/-- The decoder refuses the gain codes 6 and 7, so no accepted command is ill-formed. -/
theorem wellFormed_of_decode {c : Command} {i : Instr} (h : decode c = .ok i) : i.WellFormed := by
  obtain ⟨op, -, -, hg, rfl⟩ := decode_ok h
  cases op with
  | setgain => simpa [Op.gainReserved, Op.operands, Instr.WellFormed, Instr.wellFormed] using hg
  | _ => rfl

end Sys2Proof
end

section
/-! # O14: every step keeps the invariant

The history and the responses only grow, and by legal parts. Of the marks there is at most one: a step that is taken finds none,
and leaves none, a fault of a closed block, or a refusal. -/

namespace Sys2Proof.Machine

/-- The phase and the marks fit together: the block runs, or one mark stops it. -/
inductive State.Control (s : State) : Prop where
  | runs (hf : s.fault = none) (hrf : s.refused = none) (hopen : s.phase = .polling → s.opened = true)
  | faulted (hidle : s.phase = .idle) (hclosed : s.opened = false) (hrf : s.refused = none)
      (htrue : faultTruthful s.fault = true)
  | refused (hidle : s.phase = .idle) (hf : s.fault = none) (htrue : refusalTruthful s.refused = true)

variable {s t : State}

theorem State.inv_of_control (hc : s.Control) (hhist : historyLegal s.history = true)
    (hreads : s.reads = readCount s.history) (hrsp : s.responses.all responseLegal = true)
    (hidx : s.cmdIndex ≤ s.responses.length) : s.Inv := by
  cases hc with
  | runs hf hrf hopen =>
    exact ⟨hhist, hrsp, hidx, hreads, fun hp => ⟨hopen hp, hf, hrf⟩, .inl hf, fun h => absurd hf h, by rw [hf]; rfl,
      by rw [hrf]; rfl⟩
  | faulted hidle hclosed hrf htrue =>
    exact ⟨hhist, hrsp, hidx, hreads, by simp [hidle], .inr hrf, fun _ => hclosed, htrue, by rw [hrf]; rfl⟩
  | refused hidle hf htrue =>
    exact ⟨hhist, hrsp, hidx, hreads, by simp [hidle], .inl hf, fun h => absurd hf h, by rw [hf]; rfl, htrue⟩

theorem State.control_finish {u : State} {k : RspKind} {w : Word} (hu : s.Worked u) (hf : s.fault = none)
    (hrf : s.refused = none) : (u.finish k w).Control :=
  .runs (hu.fault_eq.trans hf) (hu.refused_eq.trans hrf) nofun

/-- NotOpen's mark names the command it stopped (60_exceptions.md R182). -/
theorem State.control_raise {i : Instr} (hidle : s.phase = .idle) (hf : s.fault = none) (hrf : s.refused = none)
    (hclosed : s.opened = false) (hi : i.needsOpen = true) : (s.raise .notOpen (encode i).cmd).Control := by
  rw [State.raise_of_none s _ _ hf]
  exact .faulted hidle hclosed hrf (by simpa [faultTruthful, decode_cmd_of_needsOpen hi] using hi)

/-- A refusal's mark names the word the decoder refused (60_exceptions.md R180). -/
theorem State.control_refuse {c : Command} {r : RefusalReason} (hidle : s.phase = .idle) (hf : s.fault = none)
    (hrf : s.refused = none) (hdec : decode c = .error r) : (s.refuse r c.cmd).Control := by
  rw [State.refuse_of_none s _ _ hrf]
  exact .refused hidle hf (by simp [refusalTruthful, decode_error_of_cmd hdec])

theorem State.Does.control {i : Instr} (h : s.Does i t) (hi : i.WellFormed) (hidle : s.phase = .idle)
    (hf : s.fault = none) (hrf : s.refused = none) : t.Control := by
  cases h with
  | finishes u k w hu => exact control_finish hu hf hrf
  | polls sel ho => exact .runs hf hrf fun _ => ho
  | faults hclosed hneeds => exact control_raise hidle hf hrf hclosed hneeds
  | refuses hbad => exact absurd hi hbad

theorem State.control_pollStep (hopen : s.opened = true) (hf : s.fault = none) (hrf : s.refused = none) :
    s.pollStep.Control := by
  obtain ⟨u, k, w, hu, he⟩ | ⟨hu, hopen'⟩ := s.pollStep_cases
  · exact he ▸ control_finish hu hf hrf
  · exact .runs (hu.fault_eq.trans hf) (hu.refused_eq.trans hrf) fun _ => hopen'.trans hopen

theorem step_same_or_control (hs : s.Inv) (h : step s = .next t) : t = s ∨ t.Control := by
  obtain ⟨-, rfl⟩ | ⟨hact, rfl⟩ | ⟨-, rfl⟩ | ⟨r, w, hact, rfl⟩ | ⟨i, hact, hexec⟩ := step_next_cases h
  · exact .inr (.runs rfl rfl nofun)
  · obtain ⟨hopen, hf, hrf⟩ := hs.polling_open (nextAction_pollOnce.1 hact).2
    exact .inr (State.control_pollStep hopen hf hrf)
  · exact .inl rfl
  · obtain ⟨-, hidle, hf, hrf, c, rest, -, hdec, rfl⟩ := nextAction_reject hact
    exact .inr (State.control_refuse hidle hf hrf hdec)
  · obtain ⟨-, hidle, hf, hrf, c, rest, -, hdec⟩ := nextAction_issue hact
    exact .inr ((exec_does hexec).control (wellFormed_of_decode hdec) hidle hf hrf)

/-- Responses are added one at a time, each legal and with one advance of cmdIndex; reset sets cmdIndex back to 0. -/
theorem step_keeps_responses (hs : s.Inv) (h : step s = .next t) :
    t.responses.all responseLegal = true ∧ t.cmdIndex ≤ t.responses.length := by
  cases hr : s.resetReq with
  | true =>
    obtain rfl : s.applyReset = t := Host.Outcome.next.inj ((step_of_resetReq hr).symm.trans h)
    exact ⟨hs.responses_legal, Nat.zero_le _⟩
  | false =>
    obtain ⟨hidx, -, -, -, r, hrsp, hlegal, -⟩ | ⟨hidx, hrsp⟩ := finishedCommandRespondsOnce s t hr h
    · rw [hidx, hrsp, List.all_append, hs.responses_legal, List.length_append]
      exact ⟨by simp [hlegal], Nat.succ_le_succ hs.index_le⟩
    · exact hidx ▸ hrsp ▸ ⟨hs.responses_legal, hs.index_le⟩

/-- Settles O14: the record grows by legal parts, and the marks fit the phase again unless the step only waits. -/
theorem stepKeepsInvariant : Obligations.StepKeepsInvariant := by
  unfold Obligations.StepKeepsInvariant
  intro s t hs h
  obtain rfl | hcontrol := step_same_or_control hs h
  · exact hs
  obtain ⟨es, hhist, hreads, hlegal, -⟩ := step_transacted h
  obtain ⟨hrsp, hidx⟩ := step_keeps_responses hs h
  refine State.inv_of_control hcontrol ?_ ?_ hrsp hidx
  · rw [hhist]
    exact historyLegal_append _ _ hs.history_legal hlegal
  · rw [hreads, hhist, readCount_append, hs.reads_eq]

end Sys2Proof.Machine
end

section
/-! # What the decoder accepts, refuses and reads (30_encoding.md R60 to R64)

A word the decoder accepts is cut by its format into an opcode, zeros and operands, and those slices are what the encoder puts
together again. -/

namespace Sys2Proof

/-! ## The formats of R61 and R62, as slices of the command word -/

/-- cmd[31:28] of a command (30_encoding.md R61). -/
def Op.opcode : Op → BitVec 4
  | .begin     => 0x1#4
  | .setgain   => 0x2#4
  | .setrate   => 0x3#4
  | .readse    => 0x4#4
  | .readdiff  => 0x5#4
  | .startse   => 0x6#4
  | .startdiff => 0x6#4
  | .poll      => 0x7#4
  | .fetch     => 0x8#4
  | .tovolts   => 0x9#4
  | .tocount   => 0xA#4
  | .armcmp    => 0xB#4

/-- The must-be-zero slices of a command's format are zero (30_encoding.md R62). -/
def Op.Clean (op : Op) (w : Word) : Prop :=
  match op with
  | .begin                   => w.extractLsb' 7 21 = 0#21
  | .setgain | .setrate      => w.extractLsb' 3 25 = 0#25
  | .readse                  => w.extractLsb' 8 20 = 0#20
  | .readdiff                => w.extractLsb' 2 26 = 0#26
  | .startse                 => w.extractLsb' 10 18 = 0#18
  | .startdiff               => w.extractLsb' 10 18 = 0#18 ∧ w.extractLsb' 2 6 = 0#6
  | .poll | .fetch | .tocount => w.extractLsb' 0 28 = 0#28
  | .tovolts                 => w.extractLsb' 16 12 = 0#12
  | .armcmp                  => w.extractLsb' 24 4 = 0#4

theorem and_mustBeZero_eq_zero_iff (op : Op) (w : Word) : w &&& op.mustBeZero = 0#32 ↔ op.Clean w := by
  cases op with
  | begin => exact and_mask_eq_zero_iff w _ 7 21 (by decide) (by decide)
  | setgain | setrate => exact and_mask_eq_zero_iff w _ 3 25 (by decide) (by decide)
  | readse => exact and_mask_eq_zero_iff w _ 8 20 (by decide) (by decide)
  | readdiff => exact and_mask_eq_zero_iff w _ 2 26 (by decide) (by decide)
  | startse => exact and_mask_eq_zero_iff w _ 10 18 (by decide) (by decide)
  | startdiff =>
    have hmask : Op.startdiff.mustBeZero = 0x0FFFFC00#32 ||| 0x000000FC#32 := by decide
    rw [hmask, BitVec.and_or_distrib_left, BitVec.or_eq_zero_iff]
    exact and_congr (and_mask_eq_zero_iff w _ 10 18 (by decide) (by decide))
      (and_mask_eq_zero_iff w _ 2 6 (by decide) (by decide))
  | poll | fetch | tocount => exact and_mask_eq_zero_iff w _ 0 28 (by decide) (by decide)
  | tovolts => exact and_mask_eq_zero_iff w _ 16 12 (by decide) (by decide)
  | armcmp => exact and_mask_eq_zero_iff w _ 24 4 (by decide) (by decide)

theorem toNat_opcode_of_ofCmd_none {w : Word} (h : Op.ofCmd w = none) :
    (w.extractLsb' 28 4).toNat = 0 ∨ (w.extractLsb' 28 4).toNat = 12 ∨ (w.extractLsb' 28 4).toNat = 13 ∨
    (w.extractLsb' 28 4).toNat = 14 ∨ (w.extractLsb' 28 4).toNat = 15 := by
  have hlt := (w.extractLsb' 28 4).isLt
  unfold Op.ofCmd at h
  split at h
  case h_12 =>
    simp only [imp_false] at *
    omega
  all_goals cases h

theorem extractLsb'_of_ofCmd {w : Word} {op : Op} (h : Op.ofCmd w = some op) : w.extractLsb' 28 4 = op.opcode := by
  apply BitVec.eq_of_toNat_eq
  unfold Op.ofCmd at h
  split at h
  case h_6 hcode => split at h <;> cases h <;> exact hcode
  case h_12 => cases h
  all_goals cases h; assumption

/-- For opcode 0x6, cmd[8] tells the two formats apart (30_encoding.md R61). -/
theorem getLsbD_8_of_ofCmd {w : Word} {op : Op} (h : Op.ofCmd w = some op) (hcode : op.opcode = 0x6#4) :
    w.getLsbD 8 = decide (op = .startdiff) := by
  have hw : Op.ofCmd w = some (if w.getLsbD 8 then .startdiff else .startse) := by
    unfold Op.ofCmd
    rw [extractLsb'_of_ofCmd h, hcode]
    rfl
  obtain rfl : (if w.getLsbD 8 then .startdiff else .startse) = op := Option.some.inj (hw.symm.trans h)
  cases w.getLsbD 8 <;> rfl

/-! ## A command word is the row of its slices -/

theorem ofBool_getLsbD (w : Word) (i : Nat) : BitVec.ofBool (w.getLsbD i) = w.extractLsb' i 1 := by
  apply BitVec.eq_of_getLsbD_eq
  intro j hj
  obtain rfl : j = 0 := by omega
  simp

/-- The constants of a format are the slices of the accepted word, and neighbouring slices join to the whole of it. -/
theorem encode_operands_cmd {c : Command} {op : Op} (hop : Op.ofCmd c.cmd = some op) (hclean : op.Clean c.cmd) :
    (encode (op.operands c)).cmd = c.cmd := by
  have hcode := extractLsb'_of_ofCmd hop
  cases op with
  | begin | setgain | setrate | readse | readdiff | tovolts | armcmp | poll | fetch | tocount =>
    simp only [Op.Clean, Op.opcode] at hcode hclean
    simp only [Op.operands, encode, ← hcode, ← hclean, BitVec.extractLsb'_append_extractLsb'_eq_extractLsb']
    exact BitVec.extractLsb'_eq_self
  | startse =>
    have hbit : c.cmd.extractLsb' 8 1 = 0#1 := by rw [← ofBool_getLsbD, getLsbD_8_of_ofCmd hop rfl]; rfl
    simp only [Op.Clean, Op.opcode] at hcode hclean
    simp only [Op.operands, encode, ofBool_getLsbD, ← hcode, ← hclean, ← hbit,
      BitVec.extractLsb'_append_extractLsb'_eq_extractLsb']
    exact BitVec.extractLsb'_eq_self
  | startdiff =>
    have hbit : c.cmd.extractLsb' 8 1 = 1#1 := by rw [← ofBool_getLsbD, getLsbD_8_of_ofCmd hop rfl]; rfl
    obtain ⟨hhigh, hlow⟩ := hclean
    simp only [Op.opcode] at hcode
    simp only [Op.operands, encode, ofBool_getLsbD, ← hcode, ← hhigh, ← hlow, ← hbit,
      BitVec.extractLsb'_append_extractLsb'_eq_extractLsb']
    exact BitVec.extractLsb'_eq_self

/-- Settles O1: the encoder writes an instruction's own format, and each operand where the decoder reads it. -/
theorem decodeOfEncodeIsIdentity : Obligations.DecodeOfEncodeIsIdentity := by
  unfold Obligations.DecodeOfEncodeIsIdentity
  exact fun _ hi => decode_encode hi

/-- Settles O2: an accepted word has an assigned opcode and a clean format, so it is the row of slices that the encoder writes. -/
theorem encodeOfDecodeIsTheWord : Obligations.EncodeOfDecodeIsTheWord := by
  unfold Obligations.EncodeOfDecodeIsTheWord
  intro c i h
  obtain ⟨op, hop, hzero, -, rfl⟩ := decode_ok h
  have hcmd := encode_operands_cmd hop ((and_mustBeZero_eq_zero_iff op c.cmd).mp hzero)
  refine ⟨hcmd, ?_⟩
  rintro ⟨v, hv⟩
  cases op with
  | tocount => exact congrArg (Command.mk · c.opnd) hcmd
  | _ => cases hv

/-! ## What the decoder refuses (30_encoding.md R64) -/

theorem decode_of_ofCmd_none {c : Command} (h : Op.ofCmd c.cmd = none) : decode c = .error .reservedOpcode := by
  simp [decode, h]

section
variable {c : Command} {op : Op} (hop : Op.ofCmd c.cmd = some op)
include hop

/-- The checks of R184 that follow the one of the opcode. -/
theorem decode_cases_of_ofCmd :
    (decode c = .error .reservedBits ∧ ¬ op.Clean c.cmd) ∨
    (decode c = .error .reservedGain ∧ op.Clean c.cmd ∧ op.gainReserved c.cmd = true) ∨
    (decode c = .ok (op.operands c) ∧ op.Clean c.cmd ∧ op.gainReserved c.cmd = false) := by
  rw [← and_mustBeZero_eq_zero_iff]
  by_cases hzero : c.cmd &&& op.mustBeZero = 0#32
  · cases hgain : op.gainReserved c.cmd <;> simp [decode, hop, hzero, hgain]
  · simp [decode, hop, hzero]

theorem decode_ne_reservedOpcode : decode c ≠ .error .reservedOpcode := by
  obtain ⟨hd, -⟩ | ⟨hd, -⟩ | ⟨hd, -⟩ := decode_cases_of_ofCmd hop <;> simp [hd]

theorem decode_eq_reservedBits_iff : decode c = .error .reservedBits ↔ ¬ op.Clean c.cmd := by
  obtain ⟨hd, hc⟩ | ⟨hd, hc, -⟩ | ⟨hd, hc, -⟩ := decode_cases_of_ofCmd hop <;> simp [hd, hc]

theorem decode_eq_reservedGain_iff :
    decode c = .error .reservedGain ↔ op.Clean c.cmd ∧ op.gainReserved c.cmd = true := by
  obtain ⟨hd, hc⟩ | ⟨hd, hc, hg⟩ | ⟨hd, hc, hg⟩ := decode_cases_of_ofCmd hop <;> simp [*]

theorem exists_decode_eq_ok_iff :
    (∃ i, decode c = .ok i) ↔ op.Clean c.cmd ∧ op.gainReserved c.cmd = false := by
  obtain ⟨hd, hc⟩ | ⟨hd, hc, hg⟩ | ⟨hd, hc, hg⟩ := decode_cases_of_ofCmd hop <;> simp [*]

end

/-- Settles O3: a reserved opcode selects no format, and the format of another one gives each clause its bits. -/
theorem decoderRefusesExactlyReserved : Obligations.DecoderRefusesExactlyReserved := by
  unfold Obligations.DecoderRefusesExactlyReserved
  intro c
  cases hop : Op.ofCmd c.cmd with
  | none =>
    simp only [decode_of_ofCmd_none hop]
    obtain hcode | hcode | hcode | hcode | hcode := toNat_opcode_of_ofCmd_none hop <;> simp [hcode]
  | some op =>
    simp only [decode_ne_reservedOpcode hop, decode_eq_reservedBits_iff hop, decode_eq_reservedGain_iff hop,
      exists_decode_eq_ok_iff hop, extractLsb'_of_ofCmd hop]
    cases op with
    | setgain =>
      simp [Op.opcode, Op.Clean, Op.gainReserved]
      tauto
    | startse =>
      have hbit : c.cmd.getLsbD 8 = false := getLsbD_8_of_ofCmd hop rfl
      rw [hbit]
      simp [Op.opcode, Op.Clean, Op.gainReserved]
    | startdiff =>
      have hbit : c.cmd.getLsbD 8 = true := getLsbD_8_of_ofCmd hop rfl
      rw [hbit]
      simp [Op.opcode, Op.Clean, Op.gainReserved]
      tauto
    | _ => simp [Op.opcode, Op.Clean, Op.gainReserved]

/-- Settles O4: SETGAIN is the one format with a check on its operand, and the decoder makes it. -/
theorem decodedInstructionIsWellFormed : Obligations.DecodedInstructionIsWellFormed := by
  unfold Obligations.DecodedInstructionIsWellFormed
  exact fun _ _ h => wellFormed_of_decode h

/-! ## The operand word (30_encoding.md R60) -/

theorem operands_of_ne_tocount {op : Op} (h : op ≠ .tocount) (cmd o o' : Word) :
    op.operands { cmd := cmd, opnd := o } = op.operands { cmd := cmd, opnd := o' } := by
  cases op with
  | tocount => exact absurd rfl h
  | _ => rfl

/-- Settles O5: the checks look at cmd alone, and so do the operands of every format but TOCOUNT's. -/
theorem operandWordIgnoredButForTocount : Obligations.OperandWordIgnoredButForTocount := by
  unfold Obligations.OperandWordIgnoredButForTocount
  intro cmd o o' hcode
  unfold decode
  cases hop : Op.ofCmd cmd with
  | none => rfl
  | some op =>
    have hne : op ≠ .tocount := by
      rintro rfl
      exact hcode (extractLsb'_of_ofCmd hop)
    dsimp only
    rw [operands_of_ne_tocount hne cmd o o']

/-- Settles O6: the decoder is run on the thirteen words. -/
theorem specCommandWordsDecode : Obligations.SpecCommandWordsDecode := by
  unfold Obligations.SpecCommandWordsDecode
  decide

end Sys2Proof
end

section
/-! # What a line assembles to (30_encoding.md R65, R66) -/

namespace Sys2Proof.Machine

variable {ops : List (List Char)} {s : Stmt}

theorem eq_of_asmNone {i : Stmt} (h : asmNone ops i = some s) : s = i := by
  cases ops with
  | nil => exact (Option.some.inj h).symm
  | cons => cases h

theorem exists_of_asmOne {α : Type} {p : List Char → Option α} {mk : α → Stmt} (h : asmOne ops p mk = some s) :
    ∃ x a, p x = some a ∧ s = mk a := by
  unfold asmOne at h
  split at h
  · rename_i x
    obtain ⟨a, ha, hs⟩ := Option.map_eq_some_iff.mp h
    exact ⟨x, a, ha, hs.symm⟩
  · cases h

theorem exists_of_asmTwo {α β : Type} {p : List Char → Option α} {q : List Char → Option β} {mk : α → β → Stmt}
    (h : asmTwo ops p q mk = some s) : ∃ a b, s = mk a b := by
  unfold asmTwo at h
  repeat' split at h
  all_goals cases h
  exact ⟨_, _, rfl⟩

theorem asmIntIn_bounds {lo hi i : Int} {l : List Char} (h : asmIntIn lo hi l = some i) : lo ≤ i ∧ i ≤ hi := by
  unfold asmIntIn at h
  repeat' split at h
  all_goals cases h
  assumption

theorem gainSymbols_le : ∀ p ∈ gainSymbols, p.2.toNat ≤ 5 := by decide

/-- Neither a gain symbol nor a gain code of a command line is 6 or 7 (log entry 20). -/
theorem asmGain_le {l : List Char} {k : BitVec 3} (h : asmGain l = some k) : k.toNat ≤ 5 := by
  unfold asmGain at h
  split at h
  · rename_i k' hk
    obtain rfl : k' = k := Option.some.inj h
    obtain ⟨before, after, htable, -⟩ := List.lookup_eq_some_iff.mp hk
    exact gainSymbols_le (l, k') (by rw [htable]; exact List.mem_append_cons_self)
  · obtain ⟨i, hi, rfl⟩ := Option.map_eq_some_iff.mp h
    obtain ⟨hlo, hhi⟩ := asmIntIn_bounds hi
    interval_cases i <;> decide

theorem asmStmt_wellFormed {m : Mnemonic} {i : Instr} (h : asmStmt m ops = some (.command i)) : i.WellFormed := by
  cases m with
  | setgain =>
    obtain ⟨x, k, hk, hi⟩ := exists_of_asmOne h
    obtain rfl := Stmt.command.inj hi
    exact decide_eq_true (asmGain_le hk)
  | poll | fetch | read01 | read03 | read13 | read23 =>
    obtain rfl := Stmt.command.inj (eq_of_asmNone h)
    rfl
  | startse | startdiff | armcmp =>
    obtain ⟨a, b, hi⟩ := exists_of_asmTwo h
    obtain rfl := Stmt.command.inj hi
    rfl
  | word =>
    obtain ⟨x, w, -, hw⟩ := exists_of_asmOne h
    cases hw
  | begin | setrate | readse | readdiff | tovolts | tocount | startcont | startone =>
    obtain ⟨x, a, -, hi⟩ := exists_of_asmOne h
    obtain rfl := Stmt.command.inj hi
    rfl

theorem exists_asmStmt_of_asmLine {line : List Char} (h : asmLine line = .stmt s) : ∃ m ops, asmStmt m ops = some s := by
  unfold asmLine at h
  dsimp only at h
  repeat' split at h
  all_goals cases h
  exact ⟨_, _, ‹_›⟩

/-- Settles O7: a line's command is well-formed, and the decoder reads every well-formed command back. -/
theorem assembledCommandIsAccepted : Obligations.AssembledCommandIsAccepted := by
  unfold Obligations.AssembledCommandIsAccepted
  intro line i h
  obtain ⟨m, ops, hstmt⟩ := exists_asmStmt_of_asmLine h
  exact decode_encode (asmStmt_wellFormed hstmt)

/-- An operand fixed by its spelling makes a two-operand statement one of one operand. -/
theorem asmTwo_eq_asmOne {α β : Type} {p : List Char → Option α} {q : List Char → Option β} {mk : α → β → Stmt}
    (x : List Char) {y : List Char} {b : β} (hy : q y = some b) :
    asmTwo [x, y] p q mk = asmOne [x] p (mk · b) := by
  cases hx : p x <;> simp [asmTwo, asmOne, hx, hy]

/-- Settles O8: the spellings are run through the assembler; STARTCONT and STARTONE fix the cont operand of STARTSE. -/
theorem pseudoInstructionsExpand : Obligations.PseudoInstructionsExpand := by
  unfold Obligations.PseudoInstructionsExpand
  refine ⟨by decide, by decide, by decide, by decide, by decide, by decide, fun ch => ?_, fun ch => ?_, rfl⟩
  · have hcont : asmCont "cont".toList = some true := by decide
    simp only [asmStmt, asmTwo_eq_asmOne ch hcont]
  · have hsingle : asmCont "single".toList = some false := by decide
    simp only [asmStmt, asmTwo_eq_asmOne ch hsingle]

end Sys2Proof.Machine
end

section
/-! # The configuration commands (40_configuration.md R100 to R103)

Gain and rate are two fields of a configuration word: over the word of gain code 0 and rate 0 they are ORed in. -/

namespace Sys2Proof.Machine

/-! ## The gain and the rate in a configuration word -/

/-- PGA and DR in their places, bits 11:9 and 7:5 (30_encoding.md R70). -/
def gainRateFields (g : Gain) (r : BitVec 3) : Half := (gainCode g).setWidth 16 <<< 9 ||| r.setWidth 16 <<< 5

theorem or_half_right_comm (a b c : Half) : a ||| b ||| c = a ||| c ||| b := by
  rw [BitVec.or_assoc, BitVec.or_comm b, BitVec.or_assoc]

theorem gainCode_fsr6144_field : (gainCode .fsr6144).setWidth 16 <<< 9 = 0#16 := by decide

theorem rate_zero_field : (0#3).setWidth 16 <<< 5 = 0#16 := by decide

theorem cfgRead_eq_or_fields (sel : Selector) (cont : Bool) (g : Gain) (r : BitVec 3) :
    cfgRead sel cont g r = cfgRead sel cont .fsr6144 0#3 ||| gainRateFields g r := by
  simp only [cfgRead, gainRateFields, gainCode_fsr6144_field, rate_zero_field, BitVec.or_zero]
  rw [or_half_right_comm, BitVec.or_assoc _ _ (r.setWidth 16 <<< 5), or_half_right_comm]

theorem cfgCmp_eq_or_fields (os : Bool) (c : BitVec 2) (g : Gain) (r : BitVec 3) :
    cfgCmp os c g r = cfgCmp os c .fsr6144 0#3 ||| gainRateFields g r := by
  simp only [cfgCmp, gainRateFields, gainCode_fsr6144_field, rate_zero_field, BitVec.zero_shiftLeft, BitVec.or_zero]
  rw [BitVec.or_assoc _ ((gainCode g).setWidth 16 <<< 9), or_half_right_comm]

theorem cfgRead_zero_fields (sel : Selector) (cont : Bool) : cfgRead sel cont .fsr6144 0#3 &&& 0x0EE0#16 = 0#16 := by
  cases sel with
  | single c => revert c cont; decide
  | diff p => revert p cont; decide

theorem cfgCmp_zero_fields (os : Bool) (c : BitVec 2) : cfgCmp os c .fsr6144 0#3 &&& 0x0EE0#16 = 0#16 := by
  revert os c; decide

theorem gainRateFields_outside (g : Gain) (r : BitVec 3) : gainRateFields g r &&& 0xF11F#16 = 0#16 := by
  cases g <;> revert r <;> decide

theorem gainRateFields_inside (g : Gain) (r : BitVec 3) : gainRateFields g r &&& 0x0EE0#16 = gainRateFields g r := by
  cases g <;> revert r <;> decide

theorem or_fields_outside (w : Half) (g : Gain) (r : BitVec 3) :
    (w ||| gainRateFields g r) &&& 0xF11F#16 = w &&& 0xF11F#16 := by
  rw [BitVec.and_or_distrib_right, gainRateFields_outside, BitVec.or_zero]

theorem or_fields_inside {w : Half} (hw : w &&& 0x0EE0#16 = 0#16) (g : Gain) (r : BitVec 3) :
    (w ||| gainRateFields g r) &&& 0x0EE0#16 = gainRateFields g r := by
  rw [BitVec.and_or_distrib_right, hw, gainRateFields_inside, BitVec.zero_or]

/-- Settles O49: on either path the word is the one of gain code 0 and rate 0 with the two fields ORed in. -/
theorem gainAndRateTouchOnlyTheirFields : Obligations.GainAndRateTouchOnlyTheirFields := by
  unfold Obligations.GainAndRateTouchOnlyTheirFields
  intro sel cont os c g g' r r'
  rw [cfgRead_eq_or_fields sel cont g r, cfgRead_eq_or_fields sel cont g' r',
    cfgCmp_eq_or_fields os c g r, cfgCmp_eq_or_fields os c g' r']
  refine ⟨?_, ?_, or_fields_inside (cfgRead_zero_fields sel cont) g r,
    or_fields_inside (cfgCmp_zero_fields os c) g r⟩
  · rw [or_fields_outside, or_fields_outside]
  · rw [or_fields_outside, or_fields_outside]

/-! ## BEGIN, SETGAIN and SETRATE -/

/-- Settles O23: the command finishes after its Open and the two writes of R100. -/
theorem beginOpensAndSetsAddress : Obligations.BeginOpensAndSetsAddress := by
  unfold Obligations.BeginOpensAndSetsAddress
  intro a s
  exact congrArg Host.Outcome.next (State.finish_eq { s.emit (.openDev a) with devAddr := a, opened := true } _ _)

/-- Settles O25: the command finishes after its one write. -/
theorem setrateHoldsCode : Obligations.SetrateHoldsCode := by
  unfold Obligations.SetrateHoldsCode
  intro k s
  exact congrArg Host.Outcome.next (State.finish_eq { s with rate := k } _ _)

theorem gainCode_toNat_le (g : Gain) : (gainCode g).toNat ≤ 5 := by cases g <;> decide

theorem exists_gainCode_of_le {k : BitVec 3} (h : k.toNat ≤ 5) : ∃ g, gainCode g = k := by
  cases hk : gainOfCode k with
  | none => exact absurd h (Nat.not_le.mpr (gainOfCode_eq_none.mp hk))
  | some g => exact ⟨g, gainCode_of_gainOfCode hk⟩

theorem exec_setgain_gainCode (g : Gain) (s : State) :
    exec (.setgain (gainCode g)) s = .next ({ s with gain := g }.finish .none 0#32) := by
  simp only [exec, execSetgain, gainOfCode_code]

theorem exec_setgain_reserved {k : BitVec 3} (h : 5 < k.toNat) (s : State) :
    exec (.setgain k) s = .next (s.refuse .reservedGain (encode (.setgain k)).cmd) := by
  simp only [exec, execSetgain, gainOfCode_eq_none.mpr h]

/-- Settles O24: the code is looked up in the table of R74, which has the codes 0 to 5. -/
theorem setgainSelectsRange : Obligations.SetgainSelectsRange := by
  unfold Obligations.SetgainSelectsRange
  intro k s
  refine ⟨?_, exists_gainCode_of_le, fun hk hr => ?_⟩
  · rintro g rfl
    rw [exec_setgain_gainCode, State.finish_eq]
  · rw [exec_setgain_reserved hk, State.refuse_of_none s _ _ hr, encode]

/-! ## A SETGAIN word at the command port (30_encoding.md R64, 60_exceptions.md R184) -/

/-- A refused command leaves the port and sets its mark (60_exceptions.md R180; log entry 9). -/
theorem step_of_decode_error {s : State} {c : Command} {rest : List Command} {r : RefusalReason} (hready : s.Ready)
    (hport : s.port = c :: rest) (hdec : decode c = .error r) :
    step s = .next { s with port := rest, refused := some (r, c.cmd) } := by
  have hact := nextAction_of_ready hready
  obtain ⟨-, -, -, hrefused⟩ := hready
  rw [hport, portAction, hdec] at hact
  rw [step, hact]
  exact congrArg Host.Outcome.next (by rw [State.refuse_of_none s.take _ _ hrefused, State.take_of_port hport])

theorem ofCmd_setgain {w : Word} (h : w.extractLsb' 28 4 = 0x2#4) : Op.ofCmd w = some .setgain := by
  simp [Op.ofCmd, h]

theorem gainReserved_setgain (w : Word) : Op.setgain.gainReserved w = decide (5 < (w.extractLsb' 0 3).toNat) := by
  simp [Op.gainReserved]

/-- A SETGAIN word with clean bits and the code of a gain is accepted as that command. -/
theorem decode_setgain {c : Command} {g : Gain} (hop : Op.ofCmd c.cmd = some .setgain) (hclean : Op.setgain.Clean c.cmd)
    (hg : gainCode g = c.cmd.extractLsb' 0 3) : decode c = .ok (.setgain (gainCode g)) := by
  have hcode : Op.setgain.gainReserved c.cmd = false := by
    rw [gainReserved_setgain, ← hg, decide_eq_false_iff_not, Nat.not_lt]
    exact gainCode_toNat_le g
  obtain ⟨-, hbits⟩ | ⟨-, -, hgain⟩ | ⟨hdec, -, -⟩ := decode_cases_of_ofCmd hop
  · exact absurd hclean hbits
  · exact absurd hgain (by simp [hcode])
  · rw [hdec, hg, Op.operands]

/-- Settles O60: the decoder makes the two checks of R184 in turn, and the step sets the mark or runs the accepted command. -/
theorem setgainWordAtThePort : Obligations.SetgainWordAtThePort := by
  unfold Obligations.SetgainWordAtThePort
  intro s c rest hready hport hopcode
  have hop := ofCmd_setgain hopcode
  refine ⟨fun hbits => ?_, fun hclean hgain => ?_, fun hclean g hg => ?_⟩
  · exact step_of_decode_error hready hport ((decode_eq_reservedBits_iff hop).mpr hbits)
  · have hreserved : Op.setgain.gainReserved c.cmd = true := by rw [gainReserved_setgain, decide_eq_true hgain]
    exact step_of_decode_error hready hport ((decode_eq_reservedGain_iff hop).mpr ⟨hclean, hreserved⟩)
  · obtain ⟨hissue, -⟩ := stepRunsDecodedCommand s hready
    rw [hissue c rest _ hport (decode_setgain hop hclean hg), exec_setgain_gainCode, State.finish_eq]

end Sys2Proof.Machine
end

section
/-! # The words of the conversion family (41_conversion.md R121, R123) -/

namespace Sys2Proof.Machine

/-! ## The read-path configuration word -/

section
variable (sel : Selector) (cont : Bool) (g : Gain) (r : BitVec 3)

@[simp] theorem cfgOs_cfgRead : cfgOs (cfgRead sel cont g r) = true := by
  simp [cfgOs, cfgRead]

@[simp] theorem cfgMux_cfgRead : cfgMux (cfgRead sel cont g r) = mux sel := by
  ext j hj
  cases cont <;> interval_cases j <;> simp [cfgMux, cfgRead]

@[simp] theorem cfgPga_cfgRead : cfgPga (cfgRead sel cont g r) = gainCode g := by
  ext j hj
  cases cont <;> interval_cases j <;> simp [cfgPga, cfgRead]

@[simp] theorem cfgMode_cfgRead : cfgMode (cfgRead sel cont g r) = !cont := by
  cases cont <;> simp [cfgMode, cfgRead]

@[simp] theorem cfgDr_cfgRead : cfgDr (cfgRead sel cont g r) = r := by
  ext j hj
  interval_cases j <;> simp [cfgDr, cfgRead]

/-- The comparator fields of 30_encoding.md R70 are zero on the read path. -/
theorem cfgRead_low_bits : (cfgRead sel cont g r).extractLsb' 0 5 = 0#5 := by
  ext j hj
  interval_cases j <;> simp [cfgRead]

end

theorem toNat_mux_single (c : BitVec 2) : (mux (.single c)).toNat = 4 + c.toNat := by
  revert c; decide

theorem toNat_mux_diff (p : BitVec 2) : (mux (.diff p)).toNat = p.toNat := by
  revert p; decide

/-- Settles O47: each clause reads one field of the word, and MUX is the code of the selector. -/
theorem configWordFields : Obligations.ConfigWordFields := by
  unfold Obligations.ConfigWordFields
  intro sel cont g r
  have hmux := congrArg BitVec.toNat (cfgMux_cfgRead sel cont g r)
  refine ⟨cfgOs_cfgRead sel cont g r, ?_, ?_, cfgPga_cfgRead sel cont g r, cfgMode_cfgRead sel cont g r,
    cfgDr_cfgRead sel cont g r, cfgRead_low_bits sel cont g r⟩
  · rintro c rfl
    exact hmux.trans (toNat_mux_single c)
  · rintro p rfl
    exact hmux.trans (toNat_mux_diff p)

/-! ## The sample decoder -/

/-- The logical shift leaves the sample bits, with zeros above them. -/
theorem ushiftRight_four_eq_setWidth (raw : Half) : raw >>> 4 = (raw.extractLsb' 4 12).setWidth 16 := by
  apply BitVec.eq_of_toNat_eq
  have hlt : raw.toNat >>> 4 < 2 ^ 12 := BitVec.toNat_ushiftRight_lt raw 4 (by decide)
  rw [BitVec.toNat_setWidth_of_le (by decide), BitVec.extractLsb'_toNat, Nat.mod_eq_of_lt hlt, BitVec.toNat_ushiftRight]

/-- Sign extension from 12 bits, as the pseudocode of R121 does it: the four high bits are set above 0x07FF. -/
theorem signExtend_twelve (x : BitVec 12) :
    x.signExtend 16 =
      if 0x07FF < (x.setWidth 16).toNat then x.setWidth 16 ||| 0xF000#16 else x.setWidth 16 := by
  have hx : (x.setWidth 16).toNat = x.toNat := BitVec.toNat_setWidth_of_le (by decide)
  split
  · have hmsb : x.msb = true := by rw [BitVec.msb_eq_decide, decide_eq_true_eq]; omega
    ext j hj
    interval_cases j <;> simp [BitVec.getElem_signExtend, hmsb]
  · have hmsb : x.msb = false := by rw [BitVec.msb_eq_decide, decide_eq_false_iff_not]; omega
    exact BitVec.signExtend_eq_setWidth_of_msb_false hmsb

theorem decodeSample_bits12_eq_signExtend (raw : Half) :
    decodeSample raw .bits12 = (raw.extractLsb' 4 12).signExtend 16 := by
  rw [decodeSample_bits12, ushiftRight_four_eq_setWidth, signExtend_twelve]

/-- Settles O50: the range is that of a 12-bit integer, and the padding is not among the sample bits. -/
theorem sampleDecodeIsSignExtension : Obligations.SampleDecodeIsSignExtension := by
  unfold Obligations.SampleDecodeIsSignExtension
  intro raw raw'
  rw [decodeSample_bits12_eq_signExtend, decodeSample_bits12_eq_signExtend]
  refine ⟨decodeSample_bits16 raw, rfl, ?_, congrArg (BitVec.signExtend 16)⟩
  rw [BitVec.toInt_signExtend_of_le (by decide)]
  exact ⟨BitVec.le_toInt _, BitVec.toInt_le⟩

end Sys2Proof.Machine
end

section
/-! # The conversion commands (41_conversion.md R122, R125 to R131)

A command on an open block runs its body, and the equations of the bus operations say what the body appends. -/

namespace Sys2Proof.Machine

variable {s : State}

/-! ## The bodies of the starts -/

theorem State.startNonBlocking_eq (s : State) (sel : Selector) (cont : Bool) :
    s.startNonBlocking sel cont =
      { s with
        history := (s.startSeq sel cont).history
        responses := s.responses ++ [{ kind := .none, rsp := 0#32 }]
        cmdIndex := s.cmdIndex + 1
        phase := .idle } := rfl

theorem State.startBlocking_eq (s : State) (sel : Selector) :
    s.startBlocking sel = { s with history := (s.startSeq sel false).history, phase := .polling } := rfl

/-! ## Commands on an open block -/

section
variable (hopen : s.opened = true)
include hopen

theorem exec_startse_of_open {ch : Byte} (hch : ch.toNat ≤ 3) (cont : Bool) :
    exec (.startse ch cont) s = .next (s.startNonBlocking (.single (ch.setWidth 2)) cont) := by
  simp only [exec, execStartse, channelGuard_of_le hch, State.whenOpen_opened _ _ _ hopen]

theorem exec_startdiff_of_open (p : BitVec 2) (cont : Bool) :
    exec (.startdiff p cont) s = .next (s.startNonBlocking (.diff p) cont) := by
  simp only [exec, execStartdiff, State.whenOpen_opened _ _ _ hopen]

theorem exec_poll_of_open :
    exec .poll s =
      .next ((s.regRead ptrCfg).2.finish .bool (boolRsp (cfgOs (s.nextAnswer.1 ++ s.nextAnswer.2)))) := by
  simp only [exec, execPoll, State.whenOpen_opened _ _ _ hopen, State.regRead_word]

theorem exec_fetch_of_open : exec .fetch s = .next s.fetchCount := by
  simp only [exec, execFetch, State.whenOpen_opened _ _ _ hopen]

/-- A blocking read that is not guarded starts the conversion of its selector (R130, R131). -/
theorem exec_of_blockingSelector {i : Instr} {sel : Selector} (hsel : blockingSelector i = some sel) :
    exec i s = .next (s.startBlocking sel) := by
  cases i with
  | readse ch =>
    obtain ⟨c, hc, rfl⟩ := Option.map_eq_some_iff.mp hsel
    simp only [exec, execReadse, hc, State.whenOpen_opened _ _ _ hopen]
  | readdiff p =>
    cases hsel
    simp only [exec, execReaddiff, State.whenOpen_opened _ _ _ hopen]
  | _ => cases hsel

end

theorem blockingSelector_readse {ch : Byte} (hch : ch.toNat ≤ 3) :
    blockingSelector (.readse ch) = some (.single (ch.setWidth 2)) := by
  rw [blockingSelector, channelGuard_of_le hch, Option.map_some]

/-- Settles O26: the command runs its body, which the equation of the setup sequence spells out. -/
theorem startsSingleEndedReading : Obligations.StartsSingleEndedReading := by
  unfold Obligations.StartsSingleEndedReading
  intro ch cont s hch hopen
  rw [exec_startse_of_open hopen hch, State.startNonBlocking_eq, State.startSeq_eq]
  rfl

/-- Settles O27: the command runs its body, which the equation of the setup sequence spells out. -/
theorem startsDifferentialReading : Obligations.StartsDifferentialReading := by
  unfold Obligations.StartsDifferentialReading
  intro p cont s hopen
  rw [exec_startdiff_of_open hopen, State.startNonBlocking_eq, State.startSeq_eq]
  rfl

/-- Bit 15 of an answer is bit 7 of its high byte. -/
theorem cfgOs_append (b0 b1 : Byte) : cfgOs (b0 ++ b1) = b0.getLsbD 7 := by
  rw [cfgOs, BitVec.getLsbD_append]
  rfl

/-- Settles O28: the response is the status bit of the one read. -/
theorem pollReportsNotBusyBit : Obligations.PollReportsNotBusyBit := by
  unfold Obligations.PollReportsNotBusyBit
  intro s hopen
  rw [exec_poll_of_open hopen, State.regRead_state, cfgOs_append]
  rfl

/-- Settles O29: the command is the fetch of R129 alone. -/
theorem fetchRespondsDecodedSample : Obligations.FetchRespondsDecodedSample := by
  unfold Obligations.FetchRespondsDecodedSample
  intro s hopen
  rw [exec_fetch_of_open hopen, State.fetchCount_eq]
  rfl

/-- Settles O30: the channel is the selector of the blocking read. -/
theorem readseWritesSetupAndPolls : Obligations.ReadseWritesSetupAndPolls := by
  unfold Obligations.ReadseWritesSetupAndPolls
  intro ch s hch hopen
  rw [exec_of_blockingSelector hopen (blockingSelector_readse hch), State.startBlocking_eq, State.startSeq_eq]
  rfl

/-- Settles O31: the pair is the selector of the blocking read. -/
theorem readdiffWritesSetupAndPolls : Obligations.ReaddiffWritesSetupAndPolls := by
  unfold Obligations.ReaddiffWritesSetupAndPolls
  intro p s hopen
  rw [exec_of_blockingSelector hopen (i := .readdiff p) rfl, State.startBlocking_eq, State.startSeq_eq]
  rfl

/-- Settles O35: the guard gives no selector, so each command finishes at once. -/
theorem channelGuardIsSilent : Obligations.ChannelGuardIsSilent := by
  unfold Obligations.ChannelGuardIsSilent
  intro ch cont t s hch
  have hguard := channelGuard_of_gt hch
  simp only [exec, execReadse, execStartse, execArmcmp, hguard, State.finish_eq, and_self]

end Sys2Proof.Machine
end

section
/-! # The poll loop and the whole blocking read (41_conversion.md R130 to R132, 70_reset_and_hazards.md R209) -/

namespace Sys2Proof.Machine

variable {s : State}

/-! ## One poll step -/

theorem step_of_polling (hreset : s.resetReq = false) (hpoll : s.phase = .polling) : step s = .next s.pollStep := by
  rw [step, nextAction_pollOnce.mpr ⟨hreset, hpoll⟩]

theorem State.pollStep_of_busy (h : (s.nextAnswer.1 ++ s.nextAnswer.2).getLsbD 15 = false) :
    s.pollStep = (s.regRead ptrCfg).2 := by
  rw [State.pollStep, State.regRead_word, cfgOs, h]
  rfl

theorem State.pollStep_of_ready (h : (s.nextAnswer.1 ++ s.nextAnswer.2).getLsbD 15 = true) :
    s.pollStep = (s.regRead ptrCfg).2.fetchCount := by
  rw [State.pollStep, State.regRead_word, cfgOs, h]
  rfl

/-- Settles O20: bit 15 of the CFG answer decides whether the fetch follows the read. -/
theorem pollStepReadsStatus : Obligations.PollStepReadsStatus := by
  unfold Obligations.PollStepReadsStatus
  intro s hreset hpoll
  refine ⟨fun hbusy => ?_, fun hready => ?_⟩
  · rw [step_of_polling hreset hpoll, State.pollStep_of_busy hbusy, State.regRead_state]
    rfl
  · rw [step_of_polling hreset hpoll, State.pollStep_of_ready hready, State.fetchCount_eq, State.regRead_state]
    rfl

/-! ## The loop -/

/-- The events of the CFG reads that get the given answers (R132). -/
def statusReads (a : BitVec 7) (answers : List (Byte × Byte)) : List BusEvent :=
  answers.flatMap fun b => [.write a [ptrCfg], .read a b.1 b.2]

/-- s after polling with the given answers, with `later` left in the queue. -/
def State.polled (s : State) (answers later : List (Byte × Byte)) : State :=
  { s with
    history := s.history ++ statusReads s.devAddr answers
    oracle := later
    reads := s.reads + answers.length }

theorem State.polled_nil {later : List (Byte × Byte)} (h : s.oracle = later) : s.polled [] later = s := by
  subst h
  simp [State.polled, statusReads]

theorem State.polled_cons {a : Byte × Byte} {answers later : List (Byte × Byte)} (h : s.oracle = a :: (answers ++ later)) :
    s.polled (a :: answers) later = (s.regRead ptrCfg).2.polled answers later := by
  simp [State.polled, statusReads, State.regRead_state, State.nextAnswer_cons s _ _ h, Nat.add_assoc, Nat.add_comm 1]

/-- Each not-ready answer is one step of the loop, in which the block reads it and polls on. -/
theorem run_polled {busy later : List (Byte × Byte)} (hreset : s.resetReq = false) (hpoll : s.phase = .polling)
    (hbusy : ∀ a ∈ busy, (a.1 ++ a.2).getLsbD 15 = false) (horacle : s.oracle = busy ++ later) :
    Host.Core.run core busy.length s = .next (s.polled busy later) := by
  induction busy generalizing s with
  | nil => exact congrArg Host.Outcome.next (State.polled_nil horacle).symm
  | cons a busy ih =>
    have hnext := State.nextAnswer_cons s _ _ horacle
    have hfirst : step s = .next (s.regRead ptrCfg).2 := by
      rw [step_of_polling hreset hpoll, State.pollStep_of_busy (hnext ▸ hbusy a List.mem_cons_self)]
    have hrest : (s.regRead ptrCfg).2.oracle = busy ++ later := by
      rw [State.regRead_state, horacle, List.cons_append, List.tail_cons]
    rw [List.length_cons, run_succ_of_next _ hfirst, State.polled_cons horacle]
    exact ih hreset hpoll (fun b hb => hbusy b (List.mem_cons_of_mem a hb)) hrest

/-- Settles O21, by induction on the list of answers. -/
theorem pollLoopHasNoBound : Obligations.PollLoopHasNoBound := by
  unfold Obligations.PollLoopHasNoBound
  intro s busy later hreset hpoll hbusy horacle
  exact run_polled hreset hpoll hbusy horacle

/-! ## From the taking to the response -/

theorem State.regRead_polled (s : State) (answers later : List (Byte × Byte)) (ready : Byte × Byte) :
    ((s.polled answers (ready :: later)).regRead ptrCfg).2 = s.polled (answers ++ [ready]) later := by
  simp [State.polled, statusReads, State.regRead_state, State.nextAnswer, Nat.add_assoc]

theorem State.fetchCount_polled (s : State) (answers later : List (Byte × Byte)) (ready conv : Byte × Byte) :
    (s.polled (answers ++ [ready]) (conv :: later)).fetchCount =
      { s with
        history := s.history ++ statusReads s.devAddr answers ++
          [.write s.devAddr [ptrCfg], .read s.devAddr ready.1 ready.2,
           .write s.devAddr [ptrConv], .read s.devAddr conv.1 conv.2]
        oracle := later
        reads := s.reads + answers.length + 2
        responses := s.responses ++
          [{ kind := .count, rsp := countRsp (decodeSample (conv.1 ++ conv.2) s.profile.resolution) }]
        cmdIndex := s.cmdIndex + 1
        phase := .idle } := by
  simp [State.fetchCount_eq, State.polled, statusReads, State.nextAnswer, Nat.add_assoc]

/-- After the not-ready answers, the step that reads the ready one fetches the sample too. -/
theorem run_polled_fetchCount {busy later : List (Byte × Byte)} {ready : Byte × Byte} (hreset : s.resetReq = false)
    (hpoll : s.phase = .polling) (hbusy : ∀ a ∈ busy, (a.1 ++ a.2).getLsbD 15 = false)
    (hready : (ready.1 ++ ready.2).getLsbD 15 = true) (horacle : s.oracle = busy ++ ready :: later) :
    Host.Core.run core (busy.length + 1) s = .next (s.polled (busy ++ [ready]) later).fetchCount := by
  have hnext : (s.polled busy (ready :: later)).nextAnswer = ready := rfl
  have hlast : step (s.polled busy (ready :: later)) = .next (s.polled (busy ++ [ready]) later).fetchCount := by
    rw [step_of_polling (s := s.polled _ _) hreset hpoll, State.pollStep_of_ready (by rw [hnext, hready]),
      State.regRead_polled]
  exact (run_add_one _ _ _ (run_polled hreset hpoll hbusy horacle)).trans hlast

theorem step_of_blockingSelector {c : Command} {rest : List Command} {i : Instr} {sel : Selector} (hfree : s.Ready)
    (hopen : s.opened = true) (hport : s.port = c :: rest) (hdec : decode c = .ok i)
    (hsel : blockingSelector i = some sel) : step s = .next (State.startBlocking { s with port := rest } sel) := by
  obtain ⟨hissue, -⟩ := stepRunsDecodedCommand s hfree
  rw [hissue c rest i hport hdec]
  exact exec_of_blockingSelector (s := { s with port := rest }) hopen hsel

/-- Settles O22: the command starts the conversion, the loop uses up the not-ready answers, and the step of the ready one fetches
the sample. -/
theorem blockingReadReturnsSample : Obligations.BlockingReadReturnsSample := by
  unfold Obligations.BlockingReadReturnsSample
  intro s c rest i sel busy later ready conv hfree hopen hport hdec hsel hbusy hready horacle
  have hstart := step_of_blockingSelector hfree hopen hport hdec hsel
  obtain ⟨hreset, hidle, -⟩ := hfree
  have hpolled := run_polled_fetchCount (s := State.startBlocking { s with port := rest } sel) hreset rfl hbusy hready horacle
  rw [run_succ_of_next _ hstart, hidle]
  refine hpolled.trans (congrArg Host.Outcome.next ?_)
  rw [State.fetchCount_polled, State.startBlocking_eq, State.startSeq_eq]
  rfl

end Sys2Proof.Machine
end

section
/-! # Rounding as an approximation (00_scope.md R10, 42_scale.md R153)

`rounded x` is a nearest representable value (O55). So it keeps a representable x, it stays on x's side of every representable
bound, and it errs by half a unit in the last place at most. `toInteger` stays on its operand's side of every integer. -/

namespace Sys2Proof.Machine

/-! ## Representable values -/

theorem representable_intCast {n : ℤ} (h : |n| < 2 ^ 24) : Representable n :=
  ⟨n, 0, h, by norm_num, by simp [pow2]⟩

theorem representable_pow2 {k : ℤ} (h : -149 ≤ k) : Representable (pow2 k) :=
  ⟨1, k, by norm_num, h, by simp⟩

theorem Representable.mul_two_pow {z : ℚ} (hz : Representable z) (d : ℕ) : Representable (z * 2 ^ d) := by
  obtain ⟨n, k, hn, hk, rfl⟩ := hz
  exact ⟨n, k + d, hn, by omega, by rw [pow2_add, mul_assoc]; simp [pow2]⟩

/-! ## What `rounded` keeps -/

theorem rounded_zero : rounded 0 = 0 := by
  have hcount : ulpCount 0 = 0 := by
    rw [ulpCount, zero_mul]
    exact_mod_cast toInteger_intCast .nearestEven 0
  simp [rounded, hcount]

/-- O55's nearest value, zero included. -/
theorem abs_sub_rounded_le (x : ℚ) {z : ℚ} (hz : Representable z) : |x - rounded x| ≤ |x - z| := by
  by_cases hx : x = 0
  · simp [hx, rounded_zero]
  · exact (rounded_nearest hx hz).1

theorem ofBits_rne32_of_lt {x : ℚ} (h : |x| < (2 : ℚ) ^ 128 - 2 ^ 103) :
    Binary32.ofBits (rne32 x) = .finite (rounded x) := by
  by_cases hx : x = 0
  · rw [hx, rounded_zero, ofBits_rne32_zero]
  · exact ofBits_rne32_of_finite hx h

theorem Representable.rounded_eq {x : ℚ} (hx : Representable x) : rounded x = x := by
  have h := abs_sub_rounded_le x hx
  rw [sub_self, abs_zero, abs_nonpos_iff] at h
  linarith

theorem Representable.le_rounded {x z : ℚ} (hz : Representable z) (h : z ≤ x) : z ≤ rounded x := by
  have hnear := abs_sub_rounded_le x hz
  rw [abs_of_nonneg (sub_nonneg.2 h)] at hnear
  linarith [le_abs_self (x - rounded x)]

theorem Representable.rounded_le {x z : ℚ} (hz : Representable z) (h : x ≤ z) : rounded x ≤ z := by
  have hnear := abs_sub_rounded_le x hz
  rw [abs_of_nonpos (sub_nonpos.2 h)] at hnear
  linarith [neg_abs_le (x - rounded x)]

/-- Half a unit in the last place, which is the subnormals' or at most 2^-23 of x. -/
theorem abs_sub_rounded_le_half_ulp (x : ℚ) : |x - rounded x| ≤ max (pow2 (-149)) (|x| / 2 ^ 23) / 2 := by
  by_cases hx : x = 0
  · have := pow2_pos (-149)
    simp only [hx, rounded_zero, sub_self, abs_zero]
    positivity
  have hulp : pow2 (ulpExp |x|) ≤ max (pow2 (-149)) (|x| / 2 ^ 23) := by
    by_cases he : ulpExp |x| = -149
    · exact he ▸ le_max_left _ _
    · have := pow2_23_mul_ulp_le (abs_pos.2 hx) he
      exact le_max_of_le_right (by linarith)
  rw [rounded, abs_sub_signFactor_mul, abs_sub_mul_ulp]
  calc _ ≤ 1 / 2 * pow2 (ulpExp |x|) :=
        mul_le_mul_of_nonneg_right (toInteger_nearestEven_error _) (pow2_pos _).le
    _ ≤ _ := by linarith

/-! ## Integers -/

theorem toInteger_towardZero (x : ℚ) : toInteger .towardZero x = if x < 0 then ⌈x⌉ else ⌊x⌋ := by
  rw [← neg_neg ⌈x⌉, ← Int.floor_neg]
  rfl

theorem le_toInteger (mode : CntRound) {x : ℚ} {n : ℤ} (h : (n : ℚ) ≤ x) : n ≤ toInteger mode x := by
  cases mode with
  | nearestEven => exact le_toInteger_nearestEven h
  | towardZero =>
    have hfloor := Int.le_floor.2 h
    rw [toInteger_towardZero]
    split
    · exact hfloor.trans (Int.floor_le_ceil x)
    · exact hfloor

theorem toInteger_le (mode : CntRound) {x : ℚ} {n : ℤ} (h : x ≤ n) : toInteger mode x ≤ n := by
  cases mode with
  | nearestEven => exact toInteger_nearestEven_le h
  | towardZero =>
    have hceil := Int.ceil_le.2 h
    rw [toInteger_towardZero]
    split
    · exact hceil
    · exact (Int.floor_le_ceil x).trans hceil

/-- Dropping the fraction moves x towards zero, by less than one and not across it. -/
theorem toInteger_towardZero_error (x : ℚ) :
    |(toInteger .towardZero x : ℚ)| ≤ |x| ∧ |x - toInteger .towardZero x| < 1 ∧ 0 ≤ x * toInteger .towardZero x := by
  rw [toInteger_towardZero]
  split
  case isTrue hneg =>
    have hle := Int.le_ceil x
    have hlt := Int.ceil_lt_add_one x
    have hc : (⌈x⌉ : ℚ) ≤ 0 := by exact_mod_cast Int.ceil_le.2 (by exact_mod_cast hneg.le)
    refine ⟨?_, ?_, mul_nonneg_of_nonpos_of_nonpos hneg.le hc⟩
    · rw [abs_of_nonpos hc, abs_of_neg hneg]
      linarith
    · rw [abs_lt]
      constructor <;> linarith
  case isFalse hpos =>
    have hle := Int.floor_le x
    have hlt := Int.lt_floor_add_one x
    have hx := not_lt.1 hpos
    have hf : (0 : ℚ) ≤ ⌊x⌋ := by exact_mod_cast Int.floor_nonneg.2 hx
    refine ⟨?_, ?_, mul_nonneg hx hf⟩
    · rwa [abs_of_nonneg hf, abs_of_nonneg hx]
    · rw [abs_lt]
      constructor <;> linarith

theorem toInteger_eq_zero (mode : CntRound) {x : ℚ} (h : |x| < 1 / 2) : toInteger mode x = 0 := by
  cases mode with
  | nearestEven => exact toInteger_nearestEven_unique (by simpa using h)
  | towardZero =>
    have hlt : |(toInteger .towardZero x : ℚ)| < 1 := by linarith [(toInteger_towardZero_error x).1]
    exact Int.abs_lt_one_iff.1 (by exact_mod_cast hlt)

/-! ## The clamp -/

theorem clampRat_mem (x : ℚ) {lo hi : ℚ} (h : lo ≤ hi) : lo ≤ clampRat x lo hi ∧ clampRat x lo hi ≤ hi :=
  ⟨le_min (le_max_right _ _) h, min_le_right _ _⟩

theorem clampRat_of_mem {x lo hi : ℚ} (hl : lo ≤ x) (hu : x ≤ hi) : clampRat x lo hi = x := by
  rw [clampRat, max_eq_left hl, min_eq_left hu]

theorem clampRat_of_ge {x lo hi : ℚ} (h : lo ≤ hi) (hx : hi ≤ x) : clampRat x lo hi = hi := by
  rw [clampRat, max_eq_left (h.trans hx), min_eq_right hx]

theorem clampRat_of_le {x lo hi : ℚ} (h : lo ≤ hi) (hx : x ≤ lo) : clampRat x lo hi = lo := by
  rw [clampRat, max_eq_right hx, min_eq_left h]

/-- The clamp moves x no further from a value within the bounds. -/
theorem abs_clampRat_sub_le (x : ℚ) {c lo hi : ℚ} (hl : lo ≤ c) (hu : c ≤ hi) : |clampRat x lo hi - c| ≤ |x - c| := by
  calc |clampRat x lo hi - c| = |min (max x lo) hi - min (max c lo) hi| := by
        rw [max_eq_left hl, min_eq_left hu, clampRat]
    _ ≤ |max x lo - max c lo| := by simpa using abs_min_sub_min_le_max (max x lo) hi (max c lo) hi
    _ ≤ |x - c| := abs_max_sub_max_le_abs x c lo

end Sys2Proof.Machine
end

section
/-! # The range table and the LSB (42_scale.md R150, R151)

Dividing a normal value by a power of two lowers the exponent field and keeps the fraction field, as long as the exponent field
stays above zero. -/

namespace Sys2Proof.Machine

/-- The value of the positive normal pattern with exponent field e and fraction field f. -/
def normalValue (e f : ℕ) : ℚ := (2 ^ 23 + f : ℕ) * pow2 (e - 150)

section
variable {e f : ℕ} (hf : f < 2 ^ 23) (he : e < 255)
include hf he

theorem ofBits_normal (hpos : 0 < e) :
    Binary32.ofBits (signedPattern false (e * 2 ^ 23 + f)) = .finite (normalValue e f) := by
  rw [ofBits_signedPattern false he hf, if_neg hpos.ne', normalValue]
  simp [signFactor]

theorem toNat_normal : (signedPattern false (e * 2 ^ 23 + f)).toNat = e * 2 ^ 23 + f := by
  rw [signedPattern_toNat false (by omega), Bool.toNat_false, zero_mul, zero_add]

theorem fraction_normal : (signedPattern false (e * 2 ^ 23 + f)).extractLsb' 0 23 = BitVec.ofNat 23 f := by
  apply BitVec.eq_of_toNat_eq
  rw [BitVec.extractLsb'_toNat, toNat_normal hf he, Nat.shiftRight_zero, BitVec.toNat_ofNat, Nat.mul_add_mod_of_lt hf,
    Nat.mod_eq_of_lt hf]

end

theorem normalValue_pos (e f : ℕ) : 0 < normalValue e f :=
  mul_pos (by positivity) (pow2_pos _)

theorem normalValue_div (e f d : ℕ) : normalValue (e + d) f / 2 ^ d = normalValue e f := by
  rw [normalValue, normalValue, show ((e + d : ℕ) : ℤ) - 150 = e - 150 + d by push_cast; ring, pow2_add, ← mul_assoc,
    div_eq_iff (by positivity), pow2_eq d, zpow_natCast]

/-- floorLog2 is the one exponent whose binade x is in. -/
theorem floorLog2_unique {x : ℚ} {k : ℤ} (hl : pow2 k ≤ x) (hu : x < pow2 (k + 1)) : floorLog2 x = k := by
  obtain ⟨hlog, hlog'⟩ := floorLog2_spec ((pow2_pos k).trans_le hl)
  by_contra hne
  rcases lt_or_gt_of_ne hne with h | h
  · exact absurd ((pow2_le (Int.add_one_le_iff.2 h)).trans hl) (not_le.2 hlog')
  · exact absurd ((pow2_le (Int.add_one_le_iff.2 h)).trans hlog) (not_le.2 hu)

section
variable {e f : ℕ} (hpos : 0 < e) (hf : f < 2 ^ 23)
include hpos hf

theorem ulpExp_normalValue : ulpExp (normalValue e f) = e - 150 := by
  have hunit := pow2_pos (e - 150)
  have hfrac : ((2 ^ 23 + f : ℕ) : ℚ) < 2 ^ 24 := by exact_mod_cast (by omega : 2 ^ 23 + f < 2 ^ 24)
  have hlog : floorLog2 (normalValue e f) = 23 + (e - 150) := by
    apply floorLog2_unique
    · rw [pow2_23_add, normalValue]
      gcongr
      push_cast
      linarith [f.cast_nonneg (α := ℚ)]
    · rw [add_assoc, pow2_24_add, normalValue]
      gcongr
  rw [ulpExp, hlog]
  omega

theorem ulpCount_normalValue : ulpCount (normalValue e f) = (2 ^ 23 + f : ℕ) := by
  rw [ulpCount, ulpExp_normalValue hpos hf, normalValue, mul_assoc, mul_comm (pow2 _), pow2_neg_mul, mul_one]
  exact_mod_cast toInteger_intCast .nearestEven (2 ^ 23 + f : ℕ)

variable (he : e < 255)
include he

theorem rne32_normalValue : rne32 (normalValue e f) = signedPattern false (e * 2 ^ 23 + f) := by
  have hv := normalValue_pos e f
  have hmag : rneMagnitude (normalValue e f) = e * 2 ^ 23 + f := by
    rw [rneMagnitude_eq, ulpExp_normalValue hpos hf, ulpCount_normalValue hpos hf, if_neg (by omega)]
    omega
  rw [rne32_of_ne_zero hv.ne', abs_of_pos hv, decide_eq_false hv.not_gt, hmag]

end

/-! ## The table -/

/-- Every entry is a positive normal pattern, more than 15 binades above the subnormals. -/
theorem rangeBits_normal (g : Gain) : ∃ e f, 0 < e ∧ e + 15 < 255 ∧ f < 2 ^ 23 ∧
    rangeBits g = signedPattern false ((e + 15) * 2 ^ 23 + f) := by
  have htable : 15 < (rangeBits g).toNat / 2 ^ 23 ∧ (rangeBits g).toNat / 2 ^ 23 < 255 := by
    cases g <;> decide
  refine ⟨(rangeBits g).toNat / 2 ^ 23 - 15, (rangeBits g).toNat % 2 ^ 23, by omega, by omega, by omega,
    BitVec.eq_of_toNat_eq ?_⟩
  rw [signedPattern_toNat false (by omega), Bool.toNat_false]
  omega

theorem range32_eq_of_ofBits {g : Gain} {x : ℚ} (h : Binary32.ofBits (rangeBits g) = .finite x) : range32 g = x := by
  simp only [range32, finiteValue, h]

/-- The LSB has the range's fraction field, under an exponent field that is less by the division's power. -/
theorem lsb_normal (g : Gain) (r : Resolution) : ∃ e f, 0 < e ∧ e + (15 - shiftOf r) < 255 ∧ f < 2 ^ 23 ∧
    rangeBits g = signedPattern false ((e + (15 - shiftOf r)) * 2 ^ 23 + f) ∧ lsb g (shiftOf r) = normalValue e f := by
  obtain ⟨e, f, hpos, he, hf, hbits⟩ := rangeBits_normal g
  have hsplit : e + 15 = e + shiftOf r + (15 - shiftOf r) := by cases r <;> rfl
  have hrange := range32_eq_of_ofBits (hbits ▸ ofBits_normal hf he (by omega))
  rw [hsplit] at he hbits hrange
  exact ⟨e + shiftOf r, f, by omega, he, hf, hbits, by rw [lsb_eq, hrange, normalValue_div]⟩

/-- Settles O54, by the fields of the LSB's pattern. -/
theorem lsbIsExact : Obligations.LsbIsExact := by
  unfold Obligations.LsbIsExact
  intro g r
  obtain ⟨e, f, hpos, he, hf, hbits, hlsb⟩ := lsb_normal g r
  have he' : e < 255 := by omega
  have hrne : rne32 (lsb g (shiftOf r)) = signedPattern false (e * 2 ^ 23 + f) := hlsb ▸ rne32_normalValue hpos hf he'
  refine ⟨lsb_eq g r, hlsb ▸ normalValue_pos e f, ?_, ?_, ?_⟩
  · rw [hrne, hlsb, ofBits_normal hf he' hpos]
  · rw [hrne, hbits, fraction_normal hf he', fraction_normal hf he]
  · rw [hrne, hbits, toNat_normal hf he', toNat_normal hf he, add_mul]
    omega

/-- Settles O53: the entries are compared with the rounded decimals one by one, and each is a finite pattern. -/
theorem rangeTableIsNearestBinary32 : Obligations.RangeTableIsNearestBinary32 := by
  unfold Obligations.RangeTableIsNearestBinary32
  refine ⟨fun g => ⟨by cases g <;> decide +kernel, ?_⟩, by decide +kernel⟩
  obtain ⟨e, f, hpos, he, hf, hbits⟩ := rangeBits_normal g
  have hval := hbits ▸ ofBits_normal hf he (by omega)
  rw [hval, range32_eq_of_ofBits hval]

theorem range32_bounds (g : Gain) : 1 / 4 ≤ range32 g ∧ range32 g ≤ 8 := by
  cases g <;> decide +kernel

theorem lsb_bounds (g : Gain) (r : Resolution) : 1 / 2 ^ 17 ≤ lsb g (shiftOf r) ∧ lsb g (shiftOf r) ≤ 1 / 2 ^ 8 := by
  have hrange := range32_bounds g
  rw [lsb_eq]
  cases r <;> norm_num [shiftOf] <;> constructor <;> linarith

theorem lsb_pos (g : Gain) (r : Resolution) : 0 < lsb g (shiftOf r) :=
  lt_of_lt_of_le (by norm_num) (lsb_bounds g r).1

theorem representable_range32 (g : Gain) : Representable (range32 g) := by
  obtain ⟨-, hval⟩ := rangeTableIsNearestBinary32.1 g
  exact representable_of_ofBits hval

end Sys2Proof.Machine
end

section
/-! # TOVOLTS (42_scale.md R152)

The product of a count and the LSB is zero or a normal value far below the overflow bound. -/

namespace Sys2Proof.Machine

/-- Settles O32: the command finishes with the rounded product, and R151 is the LSB's equation. -/
theorem tovoltsRespondsVoltage : Obligations.TovoltsRespondsVoltage := by
  unfold Obligations.TovoltsRespondsVoltage
  intro n s
  rw [← lsb_eq]
  exact congrArg Host.Outcome.next (State.finish_eq s _ _)

section
variable (n : Half) (g : Gain) (r : Resolution)

theorem count_bounds : (-32768 : ℚ) ≤ n.toInt ∧ (n.toInt : ℚ) ≤ 32767 := by
  have hlo := BitVec.le_toInt n
  have hhi := BitVec.toInt_lt (x := n)
  exact ⟨by exact_mod_cast hlo, by exact_mod_cast Int.le_sub_one_of_lt hhi⟩

theorem abs_count_le : |(n.toInt : ℚ)| ≤ 2 ^ 15 := by
  obtain ⟨hlo, hhi⟩ := count_bounds n
  rw [abs_le]
  constructor <;> linarith

theorem abs_count_mul_lsb_le : |(n.toInt : ℚ) * lsb g (shiftOf r)| ≤ 2 ^ 15 * lsb g (shiftOf r) := by
  rw [abs_mul, abs_of_pos (lsb_pos g r)]
  exact mul_le_mul_of_nonneg_right (abs_count_le n) (lsb_pos g r).le

theorem ofBits_toVolts : Binary32.ofBits (toVolts n g (shiftOf r)) = .finite (rounded (n.toInt * lsb g (shiftOf r))) := by
  apply ofBits_rne32_of_lt
  calc _ ≤ 2 ^ 15 * lsb g (shiftOf r) := abs_count_mul_lsb_le n g r
    _ ≤ 2 ^ 15 * (1 / 2 ^ 8) := by gcongr; exact (lsb_bounds g r).2
    _ < _ := by norm_num

/-- Zero or normal: the least normal value is representable, and a product of a count but 0 is beyond it. -/
theorem toVolts_normal (hn : n ≠ 0#16) : 1 / 2 ^ 126 ≤ |rounded (n.toInt * lsb g (shiftOf r))| ∧
    (0 < rounded (n.toInt * lsb g (shiftOf r)) ↔ 0 < n.toInt) ∧
    (rounded (n.toInt * lsb g (shiftOf r)) < 0 ↔ n.toInt < 0) := by
  have hmin : Representable (1 / 2 ^ 126) := by
    simpa [pow2_eq, zpow_neg] using representable_pow2 (k := -126) (by norm_num)
  have hlsb : 1 / 2 ^ 126 ≤ lsb g (shiftOf r) := le_trans (by norm_num) (lsb_bounds g r).1
  have hnz : n.toInt ≠ 0 := by rwa [← BitVec.toInt_zero (w := 16), Ne, BitVec.toInt_inj]
  have hpos : (0 : ℚ) < 1 / 2 ^ 126 := by positivity
  rcases lt_or_gt_of_ne hnz with h | h
  · have hle : (n.toInt : ℚ) ≤ -1 := by exact_mod_cast Int.le_sub_one_of_lt h
    have hy := hmin.neg.rounded_le (x := n.toInt * lsb g (shiftOf r)) (by nlinarith)
    have hneg := hy.trans_lt (neg_neg_of_pos hpos)
    exact ⟨by rw [abs_of_neg hneg]; linarith, iff_of_false hneg.not_gt h.not_gt, iff_of_true hneg h⟩
  · have hge : (1 : ℚ) ≤ n.toInt := by exact_mod_cast h
    have hy := hmin.le_rounded (x := n.toInt * lsb g (shiftOf r)) (by nlinarith)
    have hgt := hpos.trans_le hy
    exact ⟨by rwa [abs_of_pos hgt], iff_of_true hgt h, iff_of_false hgt.not_gt h.not_gt⟩

end

/-- The most negative count is the range, scaled by a power of two and negated: an exact value. -/
theorem rounded_most_negative (g : Gain) (r : Resolution) :
    rounded ((-32768 : ℤ) * lsb g (shiftOf r)) = -(range32 g * 2 ^ shiftOf r) := by
  have hprod : ((-32768 : ℤ) : ℚ) * lsb g (shiftOf r) = -(range32 g * 2 ^ shiftOf r) := by
    rw [lsb_eq]
    cases r <;> norm_num [shiftOf] <;> ring
  rw [hprod, ((representable_range32 g).mul_two_pow _).neg.rounded_eq]

/-- The largest decoded count is one LSB short of the range. -/
theorem largest_count_mul_lsb (g : Gain) (r : Resolution) :
    ((bits16 (32767 / 2 ^ shiftOf r)).toInt : ℚ) * lsb g (shiftOf r) = range32 g - range32 g / 2 ^ (15 - shiftOf r) := by
  have hcount : (bits16 (32767 / 2 ^ shiftOf r)).toInt = 2 ^ (15 - shiftOf r) - 1 := by cases r <;> decide
  have hpow : (2 : ℚ) ^ (15 - shiftOf r) ≠ 0 := by positivity
  rw [lsb_eq, hcount]
  push_cast
  rw [sub_mul, one_mul, mul_div_cancel₀ _ hpow]

/-- Settles O56: a product that is not zero is normal, and its two ends are the range and one LSB less. -/
theorem tovoltsResultIsNormal : Obligations.TovoltsResultIsNormal := by
  unfold Obligations.TovoltsResultIsNormal
  intro n g r
  refine ⟨?_, ?_, ?_, ?_⟩
  · rw [ofBits_toVolts]
    by_cases hn : n = 0#16
    · simp [hn, rounded_zero]
    · obtain ⟨hnormal, hsign⟩ := toVolts_normal n g r hn
      exact ⟨fun _ => hnormal, hsign⟩
  · simp [toVolts, rne32]
  · rw [ofBits_toVolts, show (bits16 (-32768)).toInt = -32768 by decide, rounded_most_negative]
  · rw [toVolts, largest_count_mul_lsb]

end Sys2Proof.Machine
end

section
/-! # TOCOUNT (42_scale.md R153 to R156)

The count is the rounded quotient, clamped and narrowed to an integer. A quotient beyond the overflow bound is beyond the clamp
too, so this holds of every finite operand. -/

namespace Sys2Proof.Machine

variable (mode : CntRound) (nan : Half) {v : Word} (g : Gain) (r : Resolution)

/-! ## The count of each kind of operand -/

theorem toCount_of_quotient {s : ℕ} {x y : ℚ} (hx : Binary32.ofBits v = .finite x)
    (hy : Binary32.ofBits (rne32 (x / lsb g s)) = .finite y) :
    toCount mode nan v g s = bits16 (toInteger mode (clampRat y (-32768) 32767)) := by
  simp only [toCount, quotient32, hx, hy]

/-- The upper bound is representable, so a quotient beyond it is rounded to no value within the clamp. -/
theorem toInteger_clampRat_rounded_of_ge {q : ℚ} (h : 32767 ≤ q) :
    toInteger mode (clampRat (rounded q) (-32768) 32767) = 32767 := by
  have hhi : Representable 32767 := by exact_mod_cast representable_intCast (n := 32767) (by norm_num)
  rw [clampRat_of_ge (by norm_num) (hhi.le_rounded h)]
  exact_mod_cast toInteger_intCast mode 32767

/-- The same for the lower bound and a quotient below it. -/
theorem toInteger_clampRat_rounded_of_le {q : ℚ} (h : q ≤ -32768) :
    toInteger mode (clampRat (rounded q) (-32768) 32767) = -32768 := by
  have hlo : Representable (-32768) := by exact_mod_cast representable_intCast (n := -32768) (by norm_num)
  rw [clampRat_of_le (by norm_num) (hlo.rounded_le h)]
  exact_mod_cast toInteger_intCast mode (-32768)

theorem toCount_of_finite {s : ℕ} {x : ℚ} (hx : Binary32.ofBits v = .finite x) :
    toCount mode nan v g s = bits16 (toInteger mode (clampRat (rounded (x / lsb g s)) (-32768) 32767)) := by
  rcases lt_or_ge |x / lsb g s| ((2 : ℚ) ^ 128 - 2 ^ 103) with hfin | hover
  · exact toCount_of_quotient mode nan g hx (ofBits_rne32_of_lt hfin)
  simp only [toCount, quotient32, hx, ofBits_rne32_of_overflow hover]
  generalize x / lsb g s = q at hover
  rcases lt_or_ge q 0 with hneg | hpos
  · rw [abs_of_neg hneg] at hover
    rw [toInteger_clampRat_rounded_of_le mode (by norm_num at hover; linarith), decide_eq_true hneg, if_pos rfl]
  · rw [abs_of_nonneg hpos] at hover
    rw [toInteger_clampRat_rounded_of_ge mode (by norm_num at hover; linarith), decide_eq_false hpos.not_gt,
      if_neg Bool.false_ne_true]

theorem ofBits_of_nan (hex : v.extractLsb' 23 8 = 255#8) (hfr : v.extractLsb' 0 23 ≠ 0) : Binary32.ofBits v = .nan := by
  have hfr' : (v.extractLsb' 0 23).toNat ≠ 0 := fun h => hfr (BitVec.eq_of_toNat_eq h)
  simp [Binary32.ofBits, hex, hfr', -BitVec.extractLsb'_toNat]

theorem ofBits_of_exponent_zero (hex : v.extractLsb' 23 8 = 0#8) :
    ∃ x, Binary32.ofBits v = .finite x ∧ |x| < 1 / 2 ^ 126 := by
  have hfr : ((v.extractLsb' 0 23).toNat : ℚ) < 2 ^ 23 := by exact_mod_cast (v.extractLsb' 0 23).isLt
  refine ⟨signFactor (v.getLsbD 31) * ((v.extractLsb' 0 23).toNat * pow2 (-149)), ?_, ?_⟩
  · simp [Binary32.ofBits, hex, signFactor]
  · rw [abs_signFactor_mul, abs_of_nonneg (mul_nonneg (Nat.cast_nonneg _) (pow2_pos _).le)]
    calc _ < 2 ^ 23 * pow2 (-149) := mul_lt_mul_of_pos_right hfr (pow2_pos _)
      _ = 1 / 2 ^ 126 := by rw [pow2_eq]; norm_num

/-! ## The command -/

theorem exec_tocount (v : Word) (s : State) : exec (.tocount v) s = .next { s with
    nanDraws := if isNaN v then s.nanDraws + 1 else s.nanDraws
    responses := s.responses ++
      [{ kind := .count, rsp := countRsp (toCount s.params.cntRound (Config.nanCount s.nanDraws) v s.gain s.shift) }]
    cmdIndex := s.cmdIndex + 1
    phase := .idle } :=
  congrArg Host.Outcome.next
    (State.finish_eq { s with nanDraws := if isNaN v then s.nanDraws + 1 else s.nanDraws } _ _)

/-- The clamp keeps the integer within Int16, so the response reads back as the integer itself. -/
theorem toInt_bits16_toInteger_clampRat (y : ℚ) :
    (bits16 (toInteger mode (clampRat y (-32768) 32767))).toInt = toInteger mode (clampRat y (-32768) 32767) := by
  obtain ⟨hlo, hhi⟩ := clampRat_mem y (lo := -32768) (hi := 32767) (by norm_num)
  exact bits16_toInt (le_toInteger mode (by exact_mod_cast hlo)) (toInteger_le mode (by exact_mod_cast hhi))

/-- Settles O33: no wrap after the clamp, so each rounding mode's error bound is the count's. -/
theorem tocountRespondsCount : Obligations.TocountRespondsCount := by
  unfold Obligations.TocountRespondsCount
  refine fun v s => ⟨exec_tocount v s, fun x y mode nan g r hx hy => ?_⟩
  rw [← lsb_eq] at hy
  dsimp only
  rw [toCount_of_quotient mode nan g hx hy, toInt_bits16_toInteger_clampRat]
  constructor <;> rintro rfl
  · exact ⟨toInteger_nearestEven_error _, toInteger_nearestEven_even_of_half⟩
  · exact toInteger_towardZero_error _

/-! ## Saturation and the special operands -/

/-- Settles O58: the quotient by the LSB is 32768 or more, or -32768 or less, and the clamp saturates. -/
theorem tocountSaturates : Obligations.TocountSaturates := by
  unfold Obligations.TocountSaturates
  intro mode nan v g r x hx
  have hlsb := lsb_pos g r
  rw [toCount_of_finite mode nan g hx]
  constructor <;> intro h
  · have hquot := (le_div_iff₀ hlsb).2 h
    rw [toInteger_clampRat_rounded_of_ge mode (by linarith)]
  · rw [toInteger_clampRat_rounded_of_le mode ((div_le_iff₀ hlsb).2 h)]

/-- The quotient of a small voltage rounds to less than half a count. -/
theorem toCount_of_small {x : ℚ} (hx : Binary32.ofBits v = .finite x) (h : |x| < 1 / 2 ^ 126) :
    toCount mode nan v g (shiftOf r) = 0#16 := by
  have hquot : |x / lsb g (shiftOf r)| ≤ 1 / 4 := by
    rw [abs_div, abs_of_pos (lsb_pos g r), div_le_iff₀ (lsb_pos g r)]
    have := (lsb_bounds g r).1
    norm_num at h this ⊢
    linarith
  have hquarter : Representable (1 / 4) := by
    simpa [pow2_eq, show (2 : ℚ) ^ (-2 : ℤ) = 1 / 4 by norm_num] using representable_pow2 (k := -2) (by norm_num)
  obtain ⟨hlo, hhi⟩ := abs_le.1 hquot
  have hround : |rounded (x / lsb g (shiftOf r))| ≤ 1 / 4 := abs_le.2 ⟨hquarter.neg.le_rounded hlo, hquarter.rounded_le hhi⟩
  have hclamp := abs_clampRat_sub_le (rounded (x / lsb g (shiftOf r))) (c := 0) (lo := -32768) (hi := 32767) (by norm_num)
    (by norm_num)
  rw [sub_zero, sub_zero] at hclamp
  rw [toCount_of_finite mode nan g hx, toInteger_eq_zero mode (by linarith)]
  rfl

/-- Settles O59, by the fields of the operand. -/
theorem tocountSpecialInputs : Obligations.TocountSpecialInputs := by
  unfold Obligations.TocountSpecialInputs
  intro mode nan v g r
  have hinf : Binary32.ofBits 0x7F800000#32 = .inf false := by decide
  have hneginf : Binary32.ofBits 0xFF800000#32 = .inf true := by decide
  refine ⟨fun hex hfr => ?_, ?_, ?_, fun hex => ?_⟩
  · have hnan := ofBits_of_nan hex hfr
    have hcount (mode : CntRound) (nan : Half) (g : Gain) (s : ℕ) : toCount mode nan v g s = nan := by
      simp only [toCount, quotient32, hnan]
    refine ⟨hcount mode nan g _, fun s => ⟨_, exec_tocount v s, ?_, ?_⟩⟩
    · simp only [isNaN, hnan, if_true]
    · rw [hcount]
      rfl
  · simp only [toCount, quotient32, hinf, Bool.false_eq_true, if_false]
  · simp only [toCount, quotient32, hneginf, if_true]
  · obtain ⟨x, hx, hsmall⟩ := ofBits_of_exponent_zero hex
    exact toCount_of_small mode nan g r hx hsmall

/-! ## The round trip -/

/-- The voltage is within 2^-9 LSB of the exact product, and the rounded quotient is no further from the count than the exact
quotient is; together they are less than half a count. -/
theorem abs_rounded_quotient_sub_lt (c : Half) :
    |rounded (rounded (c.toInt * lsb g (shiftOf r)) / lsb g (shiftOf r)) - c.toInt| < 1 / 2 := by
  have hlsb := lsb_pos g r
  have hbound := (lsb_bounds g r).1
  have hprod := abs_count_mul_lsb_le c g r
  have hvolts := abs_sub_rounded_le_half_ulp (c.toInt * lsb g (shiftOf r))
  generalize rounded (c.toInt * lsb g (shiftOf r)) = y at hvolts
  have hulp : max (pow2 (-149)) (|c.toInt * lsb g (shiftOf r)| / 2 ^ 23) ≤ lsb g (shiftOf r) / 2 ^ 8 := by
    apply max_le
    · rw [pow2_eq]
      norm_num at hbound ⊢
      linarith
    · linarith
  have hquot : |y / lsb g (shiftOf r) - c.toInt| ≤ 1 / 2 ^ 9 := by
    rw [div_sub' hlsb.ne', abs_div, abs_of_pos hlsb, div_le_iff₀ hlsb, abs_sub_comm, mul_comm (lsb g _)]
    linarith
  have hcount : Representable c.toInt := representable_intCast (by
    have := abs_count_le c
    have : |c.toInt| ≤ 2 ^ 15 := by exact_mod_cast this
    omega)
  have hnear := abs_sub_rounded_le (y / lsb g (shiftOf r)) hcount
  calc _ ≤ |rounded (y / lsb g (shiftOf r)) - y / lsb g (shiftOf r)| + |y / lsb g (shiftOf r) - c.toInt| :=
        abs_sub_le _ _ _
    _ ≤ 1 / 2 ^ 9 + 1 / 2 ^ 9 := by
        rw [abs_sub_comm (rounded _)]
        linarith
    _ < 1 / 2 := by norm_num

theorem toCount_toVolts (c : Half) : toCount .nearestEven nan (toVolts c g (shiftOf r)) g (shiftOf r) = c := by
  obtain ⟨hlo, hhi⟩ := count_bounds c
  have hint := toInteger_nearestEven_unique
    ((abs_clampRat_sub_le _ hlo hhi).trans_lt (abs_rounded_quotient_sub_lt g r c))
  rw [toCount_of_finite _ nan g (ofBits_toVolts c g r), hint]
  exact BitVec.ofInt_toInt

/-- Settles O57: with nearestEven every count comes back, within the resolution's range or not; with towardZero the quotient of
the count 3 falls short of 3. -/
theorem roundTripOfCounts : Obligations.RoundTripOfCounts := by
  unfold Obligations.RoundTripOfCounts
  refine ⟨fun g r c nan _ => ⟨toCount_toVolts nan g r c, ?_⟩, by decide +kernel, by decide +kernel⟩
  rw [toCount_toVolts]

end Sys2Proof.Machine
end

section
/-! # The comparator (43_comparator.md R170 to R173)

The comparator word is read field by field. A threshold keeps its sign and never wraps, because it is clamped to the counts of
the resolution before the shift. -/

namespace Sys2Proof.Machine

/-! ## The comparator configuration word -/

section
variable (os : Bool) (c : BitVec 2) (g : Gain) (r : BitVec 3)

@[simp] theorem cfgOs_cfgCmp : cfgOs (cfgCmp os c g r) = os := by
  simp [cfgOs, cfgCmp]

@[simp] theorem cfgMux_cfgCmp : cfgMux (cfgCmp os c g r) = mux (.single c) := by
  ext j hj
  interval_cases j <;> simp [cfgMux, cfgCmp]

@[simp] theorem cfgPga_cfgCmp : cfgPga (cfgCmp os c g r) = gainCode g := by
  ext j hj
  interval_cases j <;> simp [cfgPga, cfgCmp]

@[simp] theorem cfgMode_cfgCmp : cfgMode (cfgCmp os c g r) = false := by
  simp [cfgMode, cfgCmp]

@[simp] theorem cfgDr_cfgCmp : cfgDr (cfgCmp os c g r) = r := by
  ext j hj
  interval_cases j <;> simp [cfgDr, cfgCmp]

@[simp] theorem cfgCompMode_cfgCmp : cfgCompMode (cfgCmp os c g r) = false := by
  simp [cfgCompMode, cfgCmp]

@[simp] theorem cfgCompPol_cfgCmp : cfgCompPol (cfgCmp os c g r) = false := by
  simp [cfgCompPol, cfgCmp]

@[simp] theorem cfgCompLat_cfgCmp : cfgCompLat (cfgCmp os c g r) = true := by
  simp [cfgCompLat, cfgCmp]

@[simp] theorem cfgCompQue_cfgCmp : cfgCompQue (cfgCmp os c g r) = 0#2 := by
  ext j hj
  interval_cases j <;> simp [cfgCompQue, cfgCmp]

end

/-- Settles O48: each clause reads one field of the word, and MUX is the code of the single-ended channel. -/
theorem comparatorWordFields : Obligations.ComparatorWordFields := by
  unfold Obligations.ComparatorWordFields
  intro os c g r
  refine ⟨cfgOs_cfgCmp os c g r, ?_, cfgPga_cfgCmp os c g r, cfgMode_cfgCmp os c g r, cfgDr_cfgCmp os c g r,
    cfgCompMode_cfgCmp os c g r, cfgCompPol_cfgCmp os c g r, cfgCompLat_cfgCmp os c g r, cfgCompQue_cfgCmp os c g r⟩
  rw [cfgMux_cfgCmp, toNat_mux_single]

/-! ## The threshold encoder -/

/-- A count of the resolution is not clamped, only shifted (R173). -/
theorem thrWord_bits16_of_mem {c : Int} {s : ℕ} (hlo : -(32768 >>> s : ℕ) ≤ c) (hhi : c ≤ (32767 >>> s : ℕ)) :
    thrWord (bits16 c) s = bits16 (c * 2 ^ s) := by
  have hmin : 32768 >>> s ≤ 32768 := Nat.shiftRight_le _ _
  have hmax : 32767 >>> s ≤ 32767 := Nat.shiftRight_le _ _
  rw [thrWord, bits16_toInt (by omega) (by omega), clampInt_of_mem hlo hhi]

/-- For s = 0 every Int16 is a count of the resolution. -/
theorem thrWord_shiftOf_bits16 (t : Half) : thrWord t (shiftOf .bits16) = t := by
  have hlo : -32768 ≤ t.toInt := BitVec.le_toInt t
  have hhi : t.toInt < 32768 := BitVec.toInt_lt
  have ht : bits16 t.toInt = t := BitVec.ofInt_toInt
  have hkeep := thrWord_bits16_of_mem (c := t.toInt) (s := shiftOf .bits16) hlo (Int.le_of_lt_add_one hhi)
  rwa [shiftOf_bits16, pow_zero, mul_one, ht] at hkeep

/-- For s = 4 the shifted value is in the Int16 range, so bits16 does not wrap it. -/
theorem toInt_thrWord_shiftOf_bits12 (t : Half) :
    (thrWord t (shiftOf .bits12)).toInt = clampInt t.toInt (-2048) 2047 * 16 := by
  have ⟨hlo, hhi⟩ := clampInt_mem (x := t.toInt) (lo := -2048) (hi := 2047) (by decide)
  exact bits16_toInt (i := clampInt t.toInt (-2048) 2047 * 16) (by omega) (by omega)

theorem bits16_mul_two_pow (c : Int) (s : ℕ) : bits16 (c * 2 ^ s) = bits16 c <<< s := by
  have hpow : bits16 (2 ^ s) = BitVec.twoPow 16 s := by
    apply BitVec.eq_of_toNat_eq
    rw [bits16, ← Nat.cast_two, ← Nat.cast_pow, BitVec.ofInt_natCast, BitVec.toNat_ofNat, BitVec.toNat_twoPow]
  calc bits16 (c * 2 ^ s) = bits16 c * bits16 (2 ^ s) := BitVec.ofInt_mul c (2 ^ s)
    _ = bits16 c <<< s := by rw [hpow, BitVec.shiftLeft_eq_mul_twoPow]

theorem thrWord_low_bits (t : Half) (s : ℕ) : (thrWord t s).extractLsb' 0 s = 0#s := by
  ext j hj
  rw [thrWord, bits16_mul_two_pow]
  simp [hj]

/-- The clamp keeps the sign, and so does the shift. -/
theorem getLsbD_fifteen_thrWord_shiftOf_bits12 (t : Half) :
    (thrWord t (shiftOf .bits12)).getLsbD 15 = decide (t.toInt < 0) := by
  calc (thrWord t (shiftOf .bits12)).getLsbD 15 = (thrWord t (shiftOf .bits12)).msb :=
        (BitVec.msb_eq_getLsbD_last _).symm
    _ = decide (clampInt t.toInt (-2048) 2047 * 16 < 0) := by
        rw [BitVec.msb_eq_toInt, toInt_thrWord_shiftOf_bits12]
    _ = decide (t.toInt < 0) := by
        rw [decide_eq_decide, clampInt]
        omega

/-- Settles O51: without a shift the clamp changes nothing; with one, the sign bit is that of the clamped threshold. -/
theorem thresholdClampedBeforeShift : Obligations.ThresholdClampedBeforeShift := by
  unfold Obligations.ThresholdClampedBeforeShift
  intro t
  rw [getLsbD_fifteen_thrWord_shiftOf_bits12]
  exact ⟨thrWord_shiftOf_bits16 t, toInt_thrWord_shiftOf_bits12 t, thrWord_low_bits t _,
    fun hpos => decide_eq_false (Int.not_lt.mpr hpos), decide_eq_true⟩

/-- The most negative count of either resolution, in the left-aligned format (R170). -/
theorem bits16_most_negative (r : Resolution) : bits16 (-(32768 / 2 ^ shiftOf r) * 2 ^ shiftOf r) = cmpLoThresh := by
  cases r <;> decide

/-- Settles O52: the most negative count is not clamped, and shifted it is the constant. -/
theorem comparatorLowThresholdServesBoth : Obligations.ComparatorLowThresholdServesBoth := by
  unfold Obligations.ComparatorLowThresholdServesBoth
  intro r
  have hlo : -(32768 >>> shiftOf r : ℕ) ≤ -(32768 / 2 ^ shiftOf r : Int) := by
    rw [Nat.shiftRight_eq_div_pow]
    push_cast
    exact le_rfl
  have hhi : -(32768 / 2 ^ shiftOf r : Int) ≤ (32767 >>> shiftOf r : ℕ) := by
    have hcount : (0 : Int) ≤ 32768 / 2 ^ shiftOf r := by positivity
    exact (Int.neg_nonpos_of_nonneg hcount).trans (Int.natCast_nonneg _)
  refine ⟨rfl, ?_, bits16_most_negative r⟩
  rw [thrWord_bits16_of_mem hlo hhi, bits16_most_negative]

/-! ## The command -/

theorem exec_armcmp_of_open {s : State} (hopen : s.opened = true) {ch : Byte} (hch : ch.toNat ≤ 3) (t : Half) :
    exec (.armcmp ch t) s = .next ((s.armSeq (ch.setWidth 2) t).finish .none 0#32) := by
  simp only [exec, execArmcmp, channelGuard_of_le hch, State.whenOpen_opened _ _ _ hopen]

/-- Settles O34: the command finishes after the three writes, which the equation of the sequence spells out. -/
theorem armcmpWritesThresholds : Obligations.ArmcmpWritesThresholds := by
  unfold Obligations.ArmcmpWritesThresholds
  intro ch t s hch hopen
  rw [exec_armcmp_of_open hopen hch, State.finish_eq, State.armSeq_eq]
  rfl

end Sys2Proof.Machine
end

section
/-! # The sticky marks and the stopped block (60_exceptions.md R180, R181, R184) -/

namespace Sys2Proof.Machine

/-- Settles O37: each mark is set where it is none, and kept where it is set. -/
theorem firstFaultMarkIsKept : Obligations.FirstFaultMarkIsKept := by
  unfold Obligations.FirstFaultMarkIsKept
  intro s k k' w w'
  exact ⟨s.raise_of_none k w, s.raise_of_marked k k' w w', fun h r => s.refuse_of_none r w h,
    fun r r' => s.refuse_of_marked r r' w w'⟩

/-- Settles O10: the step of a free block on a word that the decoder refuses. -/
theorem refusedCommandSetsOnlyItsMark : Obligations.RefusedCommandSetsOnlyItsMark := by
  unfold Obligations.RefusedCommandSetsOnlyItsMark
  exact fun _ _ _ _ hready hport hdec => step_of_decode_error hready hport hdec

section
variable {s : State} (hreset : s.resetReq = false) (hidle : s.phase = .idle)
include hreset hidle

theorem step_of_fault {k : FaultKind} {w : Word} (h : s.fault = some (k, w)) : step s = .fault (.stopped k w) := by
  have hact : s.nextAction = .haltedByFault k w := by simp [State.nextAction, hreset, hidle, h]
  rw [step, hact]

theorem step_of_refused {r : RefusalReason} {w : Word} (hfault : s.fault = none) (h : s.refused = some (r, w)) :
    step s = .refused (.stopped r w) := by
  have hact : s.nextAction = .haltedByRefusal r w := by simp [State.nextAction, hreset, hidle, hfault, h]
  rw [step, hact]

end

/-- Settles O11: the sequencer looks at a reset request first, then at the fault mark, then at the refusal mark. -/
theorem stoppedBlockTakesNoCommand : Obligations.StoppedBlockTakesNoCommand := by
  unfold Obligations.StoppedBlockTakesNoCommand
  intro s hidle
  refine ⟨fun k w hreset hfault => step_of_fault hreset hidle hfault,
    fun r w hreset hfault hrefused => step_of_refused hreset hidle hfault hrefused,
    fun hreset => ⟨s.applyReset, step_of_resetReq hreset, rfl, rfl, s.applyReset_port⟩⟩

end Sys2Proof.Machine
end

section
/-! # NotOpen, and stops without a partial effect (60_exceptions.md R182, R183)

The inversion `exec_does` names the ends of a command. A fault or a refusal is the mark alone, and the other ends keep the marks. -/

namespace Sys2Proof.Machine

variable {s t : State} {i : Instr}

/-- A command that needs the device stops on a closed block before its first transaction. -/
theorem exec_of_needsOpen_of_closed (hi : i.needsOpen = true) (hclosed : s.opened = false) :
    exec i s = .next (s.raise .notOpen (encode i).cmd) := by
  have hstop := fun j body => s.whenOpen_closed j body hclosed
  cases i with
  | begin | setgain | setrate | tovolts | tocount => cases hi
  | readse | startse | armcmp =>
    have hguard := channelGuard_of_le (of_decide_eq_true hi)
    simp only [exec, execReadse, execStartse, execArmcmp, hguard, hstop]
  | readdiff | startdiff | poll | fetch => exact congrArg Host.Outcome.next (hstop _ _)

theorem State.Does.fault_eq (h : s.Does i t) (hi : i.needsOpen = false ∨ s.opened = true) : t.fault = s.fault := by
  cases h with
  | finishes u k w hu => exact hu.fault_eq
  | polls sel hopen => rfl
  | faults hclosed hneeds => simp [hclosed, hneeds] at hi
  | refuses hbad => exact s.refuse_fault _ _

/-- Settles O36: of the ends of a command only NotOpen touches the fault mark. -/
theorem notOpenStopsBusCommands : Obligations.NotOpenStopsBusCommands := by
  unfold Obligations.NotOpenStopsBusCommands
  intro i s
  refine ⟨fun hi hclosed hfault => ?_, fun hi => ?_⟩
  · rw [exec_of_needsOpen_of_closed hi hclosed, State.raise_of_none s _ _ hfault]
  · obtain ⟨t, ht⟩ := exec_next s i
    exact ⟨t, ht, (exec_does ht).fault_eq hi⟩

/-- The state t is s with other marks at most. -/
def State.SameButMarks (s t : State) : Prop := t = { s with fault := t.fault, refused := t.refused }

theorem State.sameButMarks_raise (s : State) (k : FaultKind) (w : Word) : s.SameButMarks (s.raise k w) := by
  unfold State.SameButMarks State.raise
  split <;> rfl

theorem State.sameButMarks_refuse (s : State) (r : RefusalReason) (w : Word) : s.SameButMarks (s.refuse r w) := by
  unfold State.SameButMarks State.refuse
  split <;> rfl

theorem State.Worked.marks_eq (h : s.Worked t) : t.fault = s.fault ∧ t.refused = s.refused := ⟨h.fault_eq, h.refused_eq⟩

theorem State.Does.marks_eq_or_sameButMarks (h : s.Does i t) :
    (t.fault = s.fault ∧ t.refused = s.refused) ∨ s.SameButMarks t := by
  cases h with
  | finishes u k w hu => exact .inl hu.marks_eq
  | polls sel hopen => exact .inl ⟨rfl, rfl⟩
  | faults hclosed hneeds => exact .inr (s.sameButMarks_raise _ _)
  | refuses hbad => exact .inr (s.sameButMarks_refuse _ _)

theorem State.pollStep_marks_eq (s : State) : s.pollStep.fault = s.fault ∧ s.pollStep.refused = s.refused := by
  obtain ⟨u, k, w, hu, he⟩ | ⟨hu, -⟩ := s.pollStep_cases
  · exact he ▸ hu.marks_eq
  · exact hu.marks_eq

theorem step_marks_eq_or_sameButMarks (hreset : s.resetReq = false) (h : step s = .next t) :
    (t.fault = s.fault ∧ t.refused = s.refused) ∨ s.take.SameButMarks t := by
  obtain ⟨hact, -⟩ | ⟨-, rfl⟩ | ⟨-, rfl⟩ | ⟨r, w, -, rfl⟩ | ⟨i, -, hexec⟩ := step_next_cases h
  · simp [nextAction_reset.1 hact] at hreset
  · exact .inl s.pollStep_marks_eq
  · exact .inl ⟨rfl, rfl⟩
  · exact .inr (s.take.sameButMarks_refuse r w)
  · exact (exec_does hexec).marks_eq_or_sameButMarks

/-- Settles O38: a step that changes a mark is a refusal or a fault, and those set the mark alone. -/
theorem stopHasNoPartialEffect : Obligations.StopHasNoPartialEffect := by
  unfold Obligations.StopHasNoPartialEffect
  intro s t hreset h hmark
  obtain ⟨hf, hrf⟩ | honly := step_marks_eq_or_sameButMarks hreset h
  · simp [hf, hrf] at hmark
  · exact honly

end Sys2Proof.Machine
end

section
/-! # The bus before BEGIN (60_exceptions.md R182, 70_reset_and_hazards.md R202)

A Read or a Write is sent to the device address. A closed block does not look at that address, so the same transaction would have
to go to every other address as well. -/

namespace Sys2Proof.Machine

variable {s t u : State}

/-- A transaction sent to two device addresses is neither a Read nor a Write. -/
theorem BusEvent.SentTo.exists_openDev {e : BusEvent} {a b : BitVec 7} (ha : e.SentTo a t) (hb : e.SentTo b u)
    (hne : a ≠ b) : ∃ c, e = .openDev c := by
  cases e with
  | openDev c => exact ⟨c, rfl⟩
  | write | read => exact absurd (ha.symm.trans hb) hne

/-- A closed idle block does the same on the bus whatever its device address is. -/
theorem step_withDevAddr_history (hclosed : s.opened = false) (hidle : s.phase = .idle) (h : step s = .next t)
    (a : BitVec 7) : ∃ u, step (s.withDevAddr a) = .next u ∧ u.history = t.history := by
  obtain hsame | ⟨t', ht', hu, -⟩ := step_withDevAddr a hclosed hidle
  · exact ⟨t, hsame.trans h, rfl⟩
  · cases h.symm.trans ht'
    exact ⟨t.withDevAddr a, hu, rfl⟩

/-- Settles O41, by comparing the step with the one of the same block at another device address. -/
theorem closedBlockTouchesNoDevice : Obligations.ClosedBlockTouchesNoDevice := by
  unfold Obligations.ClosedBlockTouchesNoDevice
  intro s t hclosed hidle h
  have hne : ~~~s.devAddr ≠ s.devAddr := by simp
  obtain ⟨u, hu, hsame⟩ := step_withDevAddr_history hclosed hidle h (~~~s.devAddr)
  obtain ⟨es, hhist, -, -, hsent⟩ := step_transacted h
  obtain ⟨es', hhist', -, -, hsent'⟩ := step_transacted hu
  obtain rfl : es' = es := List.append_cancel_left (hhist'.symm.trans (hsame.trans hhist))
  exact ⟨es', hhist, fun e he => (hsent' e he).exists_openDev (hsent e he) hne⟩

end Sys2Proof.Machine
end

section
/-! # The words of the commands with a channel (30_encoding.md R61 to R63) -/

namespace Sys2Proof

/-- A slice of a known slice. -/
theorem extractLsb'_of_extractLsb'_eq {n lo len lo' len' : Nat} {w : BitVec n} {x : BitVec len}
    (h : w.extractLsb' lo len = x) (hle : lo' + len' ≤ len) :
    w.extractLsb' (lo + lo') len' = x.extractLsb' lo' len' := by
  subst h
  ext j hj
  simp [show lo' + j < len by omega, Nat.add_assoc]

theorem decode_of_clean {c : Command} {op : Op} (hop : Op.ofCmd c.cmd = some op) (hclean : op.Clean c.cmd)
    (hgain : op.gainReserved c.cmd = false) : decode c = .ok (op.operands c) := by
  obtain ⟨i, hi⟩ := (exists_decode_eq_ok_iff hop).mpr ⟨hclean, hgain⟩
  obtain ⟨op', hop', -, -, rfl⟩ := decode_ok hi
  cases hop.symm.trans hop'
  exact hi

variable {c : Command}

theorem decode_readse (h : c.cmd.extractLsb' 8 24 = 0x400000#24) : decode c = .ok (.readse (c.cmd.extractLsb' 0 8)) := by
  have hcode : c.cmd.extractLsb' 28 4 = 4#4 := extractLsb'_of_extractLsb'_eq (lo' := 20) h (by decide)
  have hop : Op.ofCmd c.cmd = some .readse := by simp [Op.ofCmd, hcode]
  exact decode_of_clean hop (extractLsb'_of_extractLsb'_eq (lo' := 0) h (by decide)) rfl

theorem decode_startse (h : c.cmd.extractLsb' 10 22 = 0x180000#22) (hbit : c.cmd.getLsbD 8 = false) :
    decode c = .ok (.startse (c.cmd.extractLsb' 0 8) (c.cmd.getLsbD 9)) := by
  have hcode : c.cmd.extractLsb' 28 4 = 6#4 := extractLsb'_of_extractLsb'_eq (lo' := 18) h (by decide)
  have hop : Op.ofCmd c.cmd = some .startse := by
    rw [Op.ofCmd, hcode, hbit]
    rfl
  exact decode_of_clean hop (extractLsb'_of_extractLsb'_eq (lo' := 0) h (by decide)) rfl

theorem decode_armcmp (h : c.cmd.extractLsb' 24 8 = 0xB0#8) :
    decode c = .ok (.armcmp (c.cmd.extractLsb' 16 8) (c.cmd.extractLsb' 0 16)) := by
  have hcode : c.cmd.extractLsb' 28 4 = 11#4 := extractLsb'_of_extractLsb'_eq (lo' := 4) h (by decide)
  have hop : Op.ofCmd c.cmd = some .armcmp := by simp [Op.ofCmd, hcode]
  exact decode_of_clean hop (extractLsb'_of_extractLsb'_eq (lo' := 0) h (by decide)) rfl

end Sys2Proof
end

section
/-! # The order of the checks (60_exceptions.md R184) -/

namespace Sys2Proof.Machine

section
variable {s : State} {c : Command} {rest : List Command} (hready : s.Ready) (hport : s.port = c :: rest)
include hready hport

theorem step_of_decode_ok {i : Instr} (hdec : decode c = .ok i) : step s = exec i { s with port := rest } :=
  (stepRunsDecodedCommand s hready).1 c rest i hport hdec

/-- NotOpen's mark holds the very word that was taken (60_exceptions.md R181). -/
theorem step_of_needsOpen_of_closed {i : Instr} (hdec : decode c = .ok i) (hi : i.needsOpen = true)
    (hclosed : s.opened = false) :
    step s = .next { s with port := rest, fault := some (.notOpen, c.cmd) } := by
  obtain ⟨hword, -⟩ := encodeOfDecodeIsTheWord c i hdec
  have hstep := step_of_decode_ok hready hport hdec
  obtain ⟨-, -, hfault, -⟩ := hready
  rw [hstep, exec_of_needsOpen_of_closed (s := { s with port := rest }) hi hclosed,
    State.raise_of_none { s with port := rest } _ _ hfault, hword]

end

/-- Settles O39: the decoder makes the checks on the word, the guard the one on the channel, and NotOpen comes last. -/
theorem checksApplyInOrder : Obligations.ChecksApplyInOrder := by
  unfold Obligations.ChecksApplyInOrder
  intro s c rest hready hport
  obtain ⟨hopcode, hbits, -⟩ := decoderRefusesExactlyReserved c
  refine ⟨fun h => ?_, fun h => ?_, fun hword hch => ?_, fun ⟨hword, hbit⟩ hch => ?_, fun hword hch => ?_, ?_⟩
  · exact step_of_decode_error hready hport (hopcode.mpr h)
  · refine step_of_decode_error hready hport (hbits.mpr ?_)
    obtain ⟨hop, hne, -⟩ | ⟨hop, hne⟩ | ⟨hop, hne⟩ | ⟨hop, hne⟩ := h <;>
      simp only [hop, hne, ne_eq, not_false_eq_true, and_self, true_or, or_true]
  · obtain ⟨hsilent, -, -⟩ := channelGuardIsSilent _ false 0 { s with port := rest } hch
    exact (step_of_decode_ok hready hport (decode_readse hword)).trans hsilent
  · obtain ⟨-, hsilent, -⟩ := channelGuardIsSilent _ (c.cmd.getLsbD 9) 0 { s with port := rest } hch
    exact (step_of_decode_ok hready hport (decode_startse hword hbit)).trans hsilent
  · obtain ⟨-, -, hsilent⟩ := channelGuardIsSilent _ false (c.cmd.extractLsb' 0 16) { s with port := rest } hch
    exact (step_of_decode_ok hready hport (decode_armcmp hword)).trans hsilent
  · rintro (⟨hword | ⟨hword, hbit⟩, hch⟩ | ⟨hword, hch⟩) hclosed
    · exact step_of_needsOpen_of_closed hready hport (decode_readse hword) (decide_eq_true hch) hclosed
    · exact step_of_needsOpen_of_closed hready hport (decode_startse hword hbit) (decide_eq_true hch) hclosed
    · exact step_of_needsOpen_of_closed hready hport (decode_armcmp hword) (decide_eq_true hch) hclosed

end Sys2Proof.Machine
end

section
/-! # Reset at any time (70_reset_and_hazards.md R200) -/

namespace Sys2Proof.Machine

/-- Settles O12: the step of a block with reset requested is the reset, and its fields are those of `State.applyReset`. -/
theorem resetRestoresStatedValues : Obligations.ResetRestoresStatedValues := by
  unfold Obligations.ResetRestoresStatedValues
  intro s hreset
  have hcode : gainCode .fsr6144 = 0#3 := rfl
  exact ⟨s.applyReset, step_of_resetReq hreset, by simp [hcode]⟩

end Sys2Proof.Machine
end
